-- ==== Sys2Proof/Word.lean ====
section
/-! DEFINITION. The word types of the block: bytes, the 9-bit counts and indices, the 4-bit status
field and the 32-bit request word. -/

namespace Sys2Proof

/-- An unsigned 8-bit value (00_scope.md R10). -/
abbrev Byte := BitVec 8

/-- A 9-bit count, length or index: PKT_COUNT, TX_LEN, the response field r3, the index of TX_READ
(10_state.md R30, R36; 30_encoding.md R80, R83). -/
abbrev Word9 := BitVec 9

/-- A 32-bit request word, delivered as one value (30_encoding.md R78; 20_memory.md R54). -/
abbrev RequestWord := BitVec 32

end Sys2Proof
end

