-- ==== Sys2Proof/Syntax.lean ====
section
/-! DEFINITION. The abstract syntax: the request ports, the instructions (one constructor per row of
spec/opcode_table.json) and the forms in which a row is presented to the block. -/

namespace Sys2Proof

/-- The request ports (20_memory.md R60). -/
inductive Port where
  | requester
  | producer
  deriving DecidableEq, Repr, Inhabited

/-- One constructor per row of spec/opcode_table.json. Operands are the named fields of
30_encoding.md R80. A command row's `len` is the frame's next raw byte LEN (30_encoding.md R72),
which the table gives no bits; assumption log 8. -/
inductive Instr where
  /-- ENC_BYTE (40_codec.md R101). -/
  | encByte (raw : Byte)
  /-- DEC_BYTE (40_codec.md R103). -/
  | decByte (wire : Byte) (escIn : Bool)
  /-- RX_WRITE (41_rxbuffer.md R130). -/
  | rxWrite (byte : Byte)
  /-- RX_PENDING (41_rxbuffer.md R132). -/
  | rxPending
  /-- RX_PEEK (41_rxbuffer.md R133). -/
  | rxPeek (offset : Byte)
  /-- RX_READ_AT (41_rxbuffer.md R134). -/
  | rxReadAt (index : Byte)
  /-- RX_ADVANCE (41_rxbuffer.md R135). -/
  | rxAdvance (newTail : Byte)
  /-- DECODE_NEXT (42_parser.md R160). -/
  | decodeNext
  /-- SCRATCH_READ (42_parser.md R180). -/
  | scratchRead (i : Byte)
  /-- TX_LOAD (43_encoder.md R200). -/
  | txLoad (i : Byte) (byte : Byte)
  /-- ENCODE (43_encoder.md R201). -/
  | encode (cmd : Byte) (len : Byte) (delta : Byte)
  /-- TX_READ (43_encoder.md R204). -/
  | txRead (i : Word9)
  /-- ILLEGAL: a request word whose OP names no operation (30_encoding.md R82), or any OP but
  RX_WRITE on the producer port (60_exceptions.md R239). -/
  | illegal (op : Byte)
  /-- START, the wire byte 0xFF (30_encoding.md R70). -/
  | start
  /-- ESCAPE, the wire byte 0xFD on its own (30_encoding.md R70). -/
  | escape
  /-- LITERAL, any other wire byte (30_encoding.md R70). -/
  | literal (value : Byte)
  /-- ESC_START, the pair FD FE (30_encoding.md R71). -/
  | escStart
  /-- ESC_ESCAPE, the pair FD FC (30_encoding.md R71). -/
  | escEscape
  /-- ESC_PAIR, any other pair FD x (30_encoding.md R88). -/
  | escPair (x : Byte)
  /-- CMD_RESERVED_ZERO, command 0x00 (30_encoding.md R75). -/
  | cmdReservedZero (len : Byte)
  /-- CMD_SCAN_REPORT, command 0x01 (30_encoding.md R74, as all rows below). -/
  | cmdScanReport (len : Byte)
  /-- CMD_SET_LED, command 0x02. -/
  | cmdSetLed (len : Byte)
  /-- CMD_AUTOSCAN_ON, command 0x03. -/
  | cmdAutoscanOn (len : Byte)
  /-- CMD_AUTOSCAN_OFF, command 0x04. -/
  | cmdAutoscanOff (len : Byte)
  /-- CMD_VENDOR_06. -/
  | cmdVendor06 (len : Byte)
  /-- CMD_VENDOR_07. -/
  | cmdVendor07 (len : Byte)
  /-- CMD_VENDOR_09. -/
  | cmdVendor09 (len : Byte)
  /-- CMD_VENDOR_0A. -/
  | cmdVendor0A (len : Byte)
  /-- CMD_VENDOR_0B. -/
  | cmdVendor0B (len : Byte)
  /-- CMD_VENDOR_0C. -/
  | cmdVendor0C (len : Byte)
  /-- CMD_DETECT, command 0x10. -/
  | cmdDetect (len : Byte)
  /-- CMD_EXCEPTION, command 0xEE, a command like any other (60_exceptions.md R234). -/
  | cmdException (len : Byte)
  /-- CMD_BOARD_INFO, command 0xF0. -/
  | cmdBoardInfo (len : Byte)
  /-- CMD_OTHER, every command value no row above names (30_encoding.md R74). -/
  | cmdOther (cmd : Byte) (len : Byte)
  deriving DecidableEq, Repr

/-- What waits at the requester port. `op` is the spec's request word (30_encoding.md R78). The
other three present the table's wire and command rows in their own formats, so that every row can
run as a step; assumption logs 7 and 8. -/
inductive Request where
  /-- A request word (op32). -/
  | op (w : RequestWord)
  /-- One wire byte (wire8). -/
  | wire8 (b : Byte)
  /-- Two wire bytes in wire order (wire16). -/
  | wire16 (first second : Byte)
  /-- A command byte and the LEN byte that follows it in the frame (pktcmd). -/
  | command (cmd len : Byte)
  deriving DecidableEq, Repr

end Sys2Proof
end

