-- ==== Sys2Proof/WellFormed.lean ====
section
/-! DEFINITION. Which instructions are well-formed: those whose operands stand for their own row of
the table and for no other. -/

namespace Sys2Proof

/-- The command values that have a row of their own (30_encoding.md R74, R75). -/
def namedCommands : List Byte :=
  [0x00, 0x01, 0x02, 0x03, 0x04, 0x06, 0x07, 0x09, 0x0A, 0x0B, 0x0C, 0x10, 0xEE, 0xF0]

/-- `op` names no operation: 0x00 or 0x0D .. 0xFF (30_encoding.md R82). -/
def illegalOp (op : Byte) : Bool := op == 0 || decide (0x0D ≤ op.toNat)

/-- Well-formedness per row. The checks: an ILLEGAL word's OP is outside 0x01 .. 0x0C (R82); a
LITERAL is neither START nor ESCAPE (R70); an ESC_PAIR is neither of the two canonical pairs nor
FD FF, which is a dangling escape and a START (R71, R88); a CMD_OTHER has no row of its own (R74). -/
def Instr.wf : Instr → Bool
  | .encByte _ => true
  | .decByte _ _ => true
  | .rxWrite _ => true
  | .rxPending => true
  | .rxPeek _ => true
  | .rxReadAt _ => true
  | .rxAdvance _ => true
  | .decodeNext => true
  | .scratchRead _ => true
  | .txLoad _ _ => true
  | .encode _ _ _ => true
  | .txRead _ => true
  | .illegal op => illegalOp op
  | .start => true
  | .escape => true
  | .literal v => v != 0xFF && v != 0xFD
  | .escStart => true
  | .escEscape => true
  | .escPair x => x != 0xFE && x != 0xFC && x != 0xFF
  | .cmdReservedZero _ => true
  | .cmdScanReport _ => true
  | .cmdSetLed _ => true
  | .cmdAutoscanOn _ => true
  | .cmdAutoscanOff _ => true
  | .cmdVendor06 _ => true
  | .cmdVendor07 _ => true
  | .cmdVendor09 _ => true
  | .cmdVendor0A _ => true
  | .cmdVendor0B _ => true
  | .cmdVendor0C _ => true
  | .cmdDetect _ => true
  | .cmdException _ => true
  | .cmdBoardInfo _ => true
  | .cmdOther c _ => !namedCommands.contains c

end Sys2Proof
end

