-- ==== Sys2Proof/Decode.lean ====
section
/-! DEFINITION. The decoder of each format of spec/opcode_table.json, the operand fields of the
request word, the encoder written from the same tables, and the host's table words. -/

namespace Sys2Proof

/-! ## Fields of the request word (30_encoding.md R78) -/

/-- OP, bits 7:0. -/
def fieldOp (w : RequestWord) : Byte := w.extractLsb' 0 8

/-- A, bits 15:8. -/
def fieldA (w : RequestWord) : Byte := w.extractLsb' 8 8

/-- B, bits 23:16. -/
def fieldB (w : RequestWord) : Byte := w.extractLsb' 16 8

/-- C, bits 31:24. -/
def fieldC (w : RequestWord) : Byte := w.extractLsb' 24 8

/-- B[0], the esc_in operand of DEC_BYTE (30_encoding.md R80). -/
def fieldB0 (w : RequestWord) : Bool := w.getLsbD 16

/-- zext_9(B[0] : A), the index operand of TX_READ (30_encoding.md R80). -/
def fieldIndex9 (w : RequestWord) : Word9 := BitVec.ofBool (fieldB0 w) ++ fieldA w

/-! ## Decoding -/

/-- The requester port's decoder: it matches OP alone and ignores every operand bit the operation
does not use (30_encoding.md R79 to R82). It is total: an OP that names no operation is ILLEGAL. -/
def decodeRequest (w : RequestWord) : Instr :=
  match (fieldOp w).toNat with
  | 0x01 => .encByte (fieldA w)
  | 0x02 => .decByte (fieldA w) (fieldB0 w)
  | 0x03 => .rxWrite (fieldA w)
  | 0x04 => .rxPending
  | 0x05 => .rxPeek (fieldA w)
  | 0x06 => .rxReadAt (fieldA w)
  | 0x07 => .rxAdvance (fieldA w)
  | 0x08 => .decodeNext
  | 0x09 => .scratchRead (fieldA w)
  | 0x0A => .txLoad (fieldA w) (fieldB w)
  | 0x0B => .encode (fieldA w) (fieldB w) (fieldC w)
  | 0x0C => .txRead (fieldIndex9 w)
  | _ => .illegal (fieldOp w)

/-- The producer port's decoder: it decodes only RX_WRITE; any other OP is ILLEGAL there
(60_exceptions.md R239). -/
def decodeProducer (w : RequestWord) : Instr :=
  if fieldOp w = 0x03 then .rxWrite (fieldA w) else .illegal (fieldOp w)

/-- The class of one wire byte (30_encoding.md R70). -/
def decodeWire8 (b : Byte) : Instr :=
  if b = 0xFF then .start else if b = 0xFD then .escape else .literal b

/-- The first encoded unit of two wire bytes and the byte left over, if any (30_encoding.md R71,
R88). ESCAPE and a byte that is not START are one pair. A wire 0xFF frames wherever it stands, so
FD FF is a dangling ESCAPE with the START left over. -/
def decodeWire16 (first second : Byte) : Instr × List Request :=
  if first = 0xFD then
    if second = 0xFE then (.escStart, [])
    else if second = 0xFC then (.escEscape, [])
    else if second = 0xFF then (.escape, [.wire8 second])
    else (.escPair second, [])
  else (decodeWire8 first, [.wire8 second])

/-- The row of a command byte (30_encoding.md R74, R75). -/
def decodeCommand (cmd len : Byte) : Instr :=
  match cmd.toNat with
  | 0x00 => .cmdReservedZero len
  | 0x01 => .cmdScanReport len
  | 0x02 => .cmdSetLed len
  | 0x03 => .cmdAutoscanOn len
  | 0x04 => .cmdAutoscanOff len
  | 0x06 => .cmdVendor06 len
  | 0x07 => .cmdVendor07 len
  | 0x09 => .cmdVendor09 len
  | 0x0A => .cmdVendor0A len
  | 0x0B => .cmdVendor0B len
  | 0x0C => .cmdVendor0C len
  | 0x10 => .cmdDetect len
  | 0xEE => .cmdException len
  | 0xF0 => .cmdBoardInfo len
  | _ => .cmdOther cmd len

/-- The instruction at the front of a presented request and what of the request is left over. -/
def decode : Request → Instr × List Request
  | .op w => (decodeRequest w, [])
  | .wire8 b => (decodeWire8 b, [])
  | .wire16 a b => decodeWire16 a b
  | .command c l => (decodeCommand c l, [])

/-! ## Encoding -/

/-- The request word C:B:A:OP (30_encoding.md R78, R86). -/
def requestWord (op a b c : Byte) : RequestWord := c ++ b ++ a ++ op

/-- A flag as the byte whose bit 0 it is. -/
def flagByte (f : Bool) : Byte := (BitVec.ofBool f).zeroExtend 8

/-- The encoding of an instruction, from the tables of 30_encoding.md R70, R71, R74, R79 and R80,
every unused operand bit zero. -/
def encode : Instr → Request
  | .encByte raw => .op (requestWord 0x01 raw 0 0)
  | .decByte wire e => .op (requestWord 0x02 wire (flagByte e) 0)
  | .rxWrite b => .op (requestWord 0x03 b 0 0)
  | .rxPending => .op (requestWord 0x04 0 0 0)
  | .rxPeek o => .op (requestWord 0x05 o 0 0)
  | .rxReadAt i => .op (requestWord 0x06 i 0 0)
  | .rxAdvance t => .op (requestWord 0x07 t 0 0)
  | .decodeNext => .op (requestWord 0x08 0 0 0)
  | .scratchRead i => .op (requestWord 0x09 i 0 0)
  | .txLoad i b => .op (requestWord 0x0A i b 0)
  | .encode cmd len delta => .op (requestWord 0x0B cmd len delta)
  | .txRead i => .op (requestWord 0x0C (i.extractLsb' 0 8) (flagByte (i.getLsbD 8)) 0)
  | .illegal op => .op (requestWord op 0 0 0)
  | .start => .wire8 0xFF
  | .escape => .wire8 0xFD
  | .literal v => .wire8 v
  | .escStart => .wire16 0xFD 0xFE
  | .escEscape => .wire16 0xFD 0xFC
  | .escPair x => .wire16 0xFD x
  | .cmdReservedZero len => .command 0x00 len
  | .cmdScanReport len => .command 0x01 len
  | .cmdSetLed len => .command 0x02 len
  | .cmdAutoscanOn len => .command 0x03 len
  | .cmdAutoscanOff len => .command 0x04 len
  | .cmdVendor06 len => .command 0x06 len
  | .cmdVendor07 len => .command 0x07 len
  | .cmdVendor09 len => .command 0x09 len
  | .cmdVendor0A len => .command 0x0A len
  | .cmdVendor0B len => .command 0x0B len
  | .cmdVendor0C len => .command 0x0C len
  | .cmdDetect len => .command 0x10 len
  | .cmdException len => .command 0xEE len
  | .cmdBoardInfo len => .command 0xF0 len
  | .cmdOther cmd len => .command cmd len

/-! ## Written form (30_encoding.md R86) -/

/-- One line of a written program: a mnemonic of 30_encoding.md R79 and its operands in R80's
order. -/
structure AsmLine where
  mnemonic : String
  operands : List Nat
  deriving DecidableEq, Repr

/-- The instruction a line stands for, if the mnemonic is one of R79 with operands that fit their
fields (30_encoding.md R86). -/
def assemble (l : AsmLine) : Option Instr :=
  if l.operands.any (fun n => decide (512 ≤ n)) then none
  else if l.mnemonic = "TX_READ" then
    match l.operands with
    | [i] => some (.txRead (BitVec.ofNat 9 i))
    | _ => none
  else if l.operands.any (fun n => decide (256 ≤ n)) then none
  else match l.mnemonic, l.operands with
    | "ENC_BYTE", [raw] => some (.encByte (BitVec.ofNat 8 raw))
    | "DEC_BYTE", [wire, 0] => some (.decByte (BitVec.ofNat 8 wire) false)
    | "DEC_BYTE", [wire, 1] => some (.decByte (BitVec.ofNat 8 wire) true)
    | "RX_WRITE", [b] => some (.rxWrite (BitVec.ofNat 8 b))
    | "RX_PENDING", [] => some .rxPending
    | "RX_PEEK", [o] => some (.rxPeek (BitVec.ofNat 8 o))
    | "RX_READ_AT", [i] => some (.rxReadAt (BitVec.ofNat 8 i))
    | "RX_ADVANCE", [t] => some (.rxAdvance (BitVec.ofNat 8 t))
    | "DECODE_NEXT", [] => some .decodeNext
    | "SCRATCH_READ", [i] => some (.scratchRead (BitVec.ofNat 8 i))
    | "TX_LOAD", [i, b] => some (.txLoad (BitVec.ofNat 8 i) (BitVec.ofNat 8 b))
    | "ENCODE", [cmd, len, delta] =>
      some (.encode (BitVec.ofNat 8 cmd) (BitVec.ofNat 8 len) (BitVec.ofNat 8 delta))
    | _, _ => none

/-! ## The host's table words -/

/-- Why a table word is refused: no row of the table has this many bits. -/
inductive DecodeError where
  /-- The table has rows of 8, 16 and 32 bits only. -/
  | noRowOfWidth (nbits : Nat)
  deriving DecidableEq, Repr

/-- The request that an instruction of the table stands for, by the row's width. 32 bits: a request
word. 16 bits: the pair escape:x of the table, bits 15:8 first on the wire. 8 bits: the table's
wire8 and pktcmd rows share this width and the word alone does not tell them apart, so a row that
fixes all 8 bits wins (START, ESCAPE, then the named commands with LEN 0), and any other byte is
a LITERAL, the earlier of the two rows that fix none; assumption log 9. -/
def tableRequest (nbits w : Nat) : Except DecodeError Request :=
  match nbits with
  | 32 => .ok (.op (BitVec.ofNat 32 w))
  | 16 => .ok (.wire16 (BitVec.ofNat 8 (w / 256)) (BitVec.ofNat 8 w))
  | 8 =>
    if namedCommands.contains (BitVec.ofNat 8 w) then .ok (.command (BitVec.ofNat 8 w) 0)
    else .ok (.wire8 (BitVec.ofNat 8 w))
  | n => .error (.noRowOfWidth n)

/-- The instruction the decoder reads from a word numbered as spec/opcode_table.json numbers its
bits. -/
def decodeTableWord (nbits w : Nat) : Option Instr :=
  match tableRequest nbits w with
  | .ok r => some (decode r).1
  | .error _ => none

end Sys2Proof
end

