-- ==== Sys2Proof/Config.lean ====
section
/-! DEFINITION. What a build fixes (the three parameters of 00_scope.md R6 and the constants that
follow from them), the environment's three time bounds, and the values the spec leaves free. -/

namespace Sys2Proof

/-- The four index spaces of the block (20_memory.md R50). -/
inductive Space where
  | rxbuf
  | scratch
  | txData
  | txWire
  deriving DecidableEq, Repr

/-- The build parameters (00_scope.md R6). They are arguments of a whole run and no operation
writes them (70_reset_and_hazards.md R262); assumption log 1. -/
structure Config where
  /-- RX_CAP, the capacity of the receive buffer in bytes. -/
  rxCap : Nat
  /-- MAX_PACKET, the capacity of the scratch buffer, START included. -/
  maxPacket : Nat
  /-- PORTS, 1 or 2. -/
  ports : Nat
  deriving DecidableEq, Repr

namespace Config

/-- The legal ranges of the parameters (00_scope.md R6). -/
abbrev Legal (c : Config) : Prop :=
  (2 ≤ c.rxCap ∧ c.rxCap ≤ 255) ∧ (128 ≤ c.maxPacket ∧ c.maxPacket ≤ 256) ∧
    (c.ports = 1 ∨ c.ports = 2)

/-- MAX_DATA, the largest payload length (00_scope.md R7). -/
def maxData (c : Config) : Nat := c.maxPacket - 4

/-- MAX_WIRE, the largest wire frame (00_scope.md R7). -/
def maxWire (c : Config) : Nat := 2 * c.maxPacket - 1

/-- How many entries a space has (20_memory.md R50). -/
def size (c : Config) : Space → Nat
  | .rxbuf => c.rxCap
  | .scratch => c.maxPacket
  | .txData => c.maxData
  | .txWire => c.maxWire

/-- The build of `State.reset`: the largest legal one. DESIGN CHOICE, unsafe: the spec leaves the
three parameters open (93 U17 to U19); assumption log 1. Statements hold for every legal build. -/
def largest : Config := { rxCap := 255, maxPacket := 256, ports := 2 }

/-- FREE VALUE. The byte that an entry of a space holds from a reset until it is first written: any
value, fixed until written (93 U1 to U4). The first argument numbers the resets, so that each reset
draws afresh; assumption log 2. -/
opaque freeByte : Nat → Space → Nat → Byte

/-- FREE VALUE. Which port is served when requests wait at both: the order is left open and every
interleaving is admitted (20_memory.md R60, 93 U5). The argument numbers the accepted requests;
assumption log 6. -/
opaque arbiter : Nat → Port

/-- FREE VALUE. T_idle, the pump's idle timeout: an environment parameter no rule reads
(00_scope.md R9, 93 U20); assumption log 10. -/
opaque tIdle : Nat

/-- FREE VALUE. T_max, the pump's absolute timeout: no rule reads it (00_scope.md R9). -/
opaque tMax : Nat

/-- FREE VALUE. T_send, the transmit wait: no rule reads it (00_scope.md R9, 43_encoder.md R205). -/
opaque tSend : Nat

end Config

end Sys2Proof
end

