-- ==== Sys2Proof/Machine/State.lean ====
section
/-! DEFINITION. The state of the block as plain data, its response record, the reasons a step can
stop, and the state after reset. -/

namespace Sys2Proof.Machine

/-- The contents of one index space: the entries written since reset, as (index, byte) cells with
strictly rising indices. An unlisted index has no written byte; its read is a free draw
(`State.readByte`; assumption log 2). -/
abbrev Memory := List Host.Cell

/-- The response status codes (60_exceptions.md R231). Codes 6 .. 15 are never produced. -/
inductive Status where
  | ok
  | full
  | range
  | encLen
  | encCmd
  | illegalOp
  deriving DecidableEq, Repr

/-- The outcome codes of PKT_STATUS.CODE (10_state.md R32). Codes 5 .. 7 are never produced. -/
inductive PktCode where
  | empty
  | incomplete
  | heldInvalid
  | valid
  | resync
  deriving DecidableEq, Repr

/-- The response record every operation returns (30_encoding.md R83). -/
structure Response where
  status : BitVec 4
  r0 : Byte
  r1 : Byte
  r2 : Byte
  r3 : Word9
  deriving DecidableEq, Repr

/-- The state. The eleven fields from `rxbuf` to `txLen` are the architectural state, exactly
(10_state.md R20). The others are the model's own: the build (log 1), the last output (log 3), the
waiting inputs (logs 4 and 5) and the two counters that index free values (logs 2 and 6). -/
structure State where
  /-- The build parameters; no operation writes them (70_reset_and_hazards.md R262). -/
  cfg : Config
  /-- RXBUF, RX_CAP bytes (10_state.md R23). -/
  rxbuf : Memory
  /-- HEAD, the next write position (10_state.md R24). -/
  head : Byte
  /-- TAIL, the next unread position (10_state.md R25). -/
  tail : Byte
  /-- SCRATCH, MAX_PACKET bytes (10_state.md R27). -/
  scratch : Memory
  /-- PKT_CMD (10_state.md R28). -/
  pktCmd : Byte
  /-- PKT_LEN (10_state.md R29). -/
  pktLen : Byte
  /-- PKT_COUNT (10_state.md R30). -/
  pktCount : Word9
  /-- PKT_STATUS (10_state.md R31). -/
  pktStatus : Byte
  /-- TXDATA, MAX_DATA bytes (10_state.md R34). -/
  txData : Memory
  /-- TXWIRE, MAX_WIRE bytes (10_state.md R35). -/
  txWire : Memory
  /-- TX_LEN (10_state.md R36). -/
  txLen : Word9
  /-- The response of the last operation, if one has answered since reset (30_encoding.md R83). -/
  response : Option Response
  /-- The port the last accepted request came from. -/
  acceptedFrom : Port
  /-- What waits at the requester port, oldest first. -/
  requesterQ : List Request
  /-- What waits at the producer port, oldest first. -/
  producerQ : List RequestWord
  /-- How many requests have been accepted. -/
  accepted : Nat
  /-- The reset input: true while it is asserted (70_reset_and_hazards.md R260, R261). -/
  resetLine : Bool
  /-- How many resets have been taken; it numbers the draws of unspecified contents. -/
  epoch : Nat
  deriving DecidableEq, Repr

/-- Reasons to stop with a fault: none. No entry of the spec is a fault (93, opening) and no error
is fatal (60_exceptions.md R230), so the type has no constructor, nobody raises one, and leaving it
empty is exact, neither safe nor unsafe. -/
inductive Fault where
  deriving DecidableEq, Repr

/-- Reasons to refuse an instruction. -/
inductive Refusal where
  /-- Raised only by an arm of `exec` whose instruction has no meaning yet; safe, since the model
  then stops. No arm of this model raises it. -/
  | notModelled (mnemonic : String)
  deriving DecidableEq, Repr

/-- The state of a build when reset is released, in the `n`-th reset epoch: the reset table
(10_state.md R40, 70_reset_and_hazards.md R260). The four arrays list nothing: their contents are
unspecified. -/
def State.resetOf (c : Config) (n : Nat) : State :=
  { cfg := c
    rxbuf := []
    head := 0
    tail := 0
    scratch := []
    pktCmd := 0x00
    pktLen := 0x00
    pktCount := 0
    pktStatus := 0x00
    txData := []
    txWire := []
    txLen := 0
    response := none
    acceptedFrom := .requester
    requesterQ := []
    producerQ := []
    accepted := 0
    resetLine := false
    epoch := n }

/-- The machine right after reset, for the build `Config.largest` (assumption log 1). -/
def State.reset : State := State.resetOf Config.largest 0

end Sys2Proof.Machine
end

