-- ==== Sys2Proof/Machine/Ops.lean ====
section
/-! DEFINITION. The named operations: reading and writing the index spaces, modular cursor
arithmetic, answering, raising an error, the reset input, presenting and accepting requests. -/

namespace Sys2Proof.Machine

/-! ## Memory -/

/-- The canonical form of a space's contents: strictly rising indices. An unlisted index reads as no
byte, so no entry can equal what an unlisted index reads as. -/
abbrev Memory.wf (m : Memory) : Prop := m.Pairwise (fun x y => x.1 < y.1)

/-- Every listed index is below `n`. -/
abbrev Memory.below (m : Memory) (n : Nat) : Prop := ∀ c ∈ m, c.1 < n

/-- The byte written at an index since reset, if any. -/
def Memory.read : Memory → Nat → Option Byte
  | [], _ => none
  | (a, b) :: m, i => if a = i then some b else Memory.read m i

/-- Writes one byte, keeping the indices strictly rising. -/
def Memory.write : Memory → Nat → Byte → Memory
  | [], i, v => [(i, v)]
  | (a, b) :: m, i, v =>
    if i < a then (i, v) :: (a, b) :: m
    else if i = a then (i, v) :: m
    else (a, b) :: Memory.write m i v

/-- Writes consecutive bytes from an index upward. -/
def Memory.writeList (m : Memory) (i : Nat) : List Byte → Memory
  | [] => m
  | b :: bs => Memory.writeList (m.write i b) (i + 1) bs

/-- What an entry reads as: the last byte written there, else the free draw of its reset epoch
(20_memory.md R68; 93 U1 to U3; assumption log 2). -/
def cellAt (epoch : Nat) (sp : Space) (m : Memory) (i : Nat) : Byte :=
  (m.read i).getD (Config.freeByte epoch sp i)

/-- The contents of a space. -/
def State.mem (s : State) : Space → Memory
  | .rxbuf => s.rxbuf
  | .scratch => s.scratch
  | .txData => s.txData
  | .txWire => s.txWire

/-- The read of one byte of a space (20_memory.md R50, R68). -/
def State.readByte (s : State) (sp : Space) (i : Nat) : Byte :=
  cellAt s.epoch sp (s.mem sp) i

/-- The slice of `n` bytes of a space from index `i` (00_scope.md R12). -/
def State.readSlice (s : State) (sp : Space) (i n : Nat) : List Byte :=
  (List.range n).map (fun j => s.readByte sp (i + j))

/-- RXBUF[i] <- v. -/
def State.writeRx (s : State) (i : Nat) (v : Byte) : State :=
  { s with rxbuf := s.rxbuf.write i v }

/-- TXDATA[i] <- v. -/
def State.writeTxData (s : State) (i : Nat) (v : Byte) : State :=
  { s with txData := s.txData.write i v }

/-- TXWIRE[j] <- w[j] for every j, and TX_LEN <- len(w) (43_encoder.md R201). -/
def State.writeFrame (s : State) (w : List Byte) : State :=
  { s with txWire := s.txWire.writeList 0 w, txLen := BitVec.ofNat 9 w.length }

/-! ## Cursors -/

/-- `(a - b) mod m` as the mathematical remainder (00_scope.md R11). -/
def modSub (a b m : Nat) : Nat := (a + (m - b % m)) % m

/-- PENDING = (HEAD - TAIL) mod RX_CAP (10_state.md R26). -/
def State.pending (s : State) : Nat := modSub s.head.toNat s.tail.toNat s.cfg.rxCap

/-- The buffer is full: (HEAD + 1) mod RX_CAP = TAIL (10_state.md R26). -/
def State.full (s : State) : Bool := (s.head.toNat + 1) % s.cfg.rxCap == s.tail.toNat

/-- The RXBUF index of window offset `i`: (TAIL + i) mod RX_CAP (20_memory.md R51). -/
def State.windowIndex (s : State) (i : Nat) : Nat := (s.tail.toNat + i) % s.cfg.rxCap

/-- The window W(0 .. n) of unread bytes, oldest first (10_state.md R26, 42_parser.md R161). -/
def State.window (s : State) : List Byte :=
  (List.range s.pending).map (fun i => s.readByte .rxbuf (s.windowIndex i))

/-- HEAD <- i, a cursor value below RX_CAP. -/
def State.setHead (s : State) (i : Nat) : State := { s with head := BitVec.ofNat 8 i }

/-- TAIL <- i, a cursor value below RX_CAP. -/
def State.setTail (s : State) (i : Nat) : State := { s with tail := BitVec.ofNat 8 i }

/-! ## Answering -/

/-- The numeric status codes (60_exceptions.md R231). -/
def Status.code : Status → BitVec 4
  | .ok => 0
  | .full => 1
  | .range => 2
  | .encLen => 3
  | .encCmd => 4
  | .illegalOp => 5

/-- respond(OK, r0, r1, r2, r3) (00_scope.md R13, 30_encoding.md R83). -/
def State.respond (s : State) (r0 r1 r2 : Byte) (r3 : Word9) : State :=
  { s with response := some { status := Status.code .ok, r0 := r0, r1 := r1, r2 := r2, r3 := r3 } }

/-- raise <STATUS>: the whole of taking an error. It answers the status with every result field 0
and leaves all state as it was (00_scope.md R13; 30_encoding.md R83; 60_exceptions.md R230, R236).
Nothing is saved and nothing returns from it (R236, R237). -/
def State.raise (s : State) (e : Status) : State :=
  { s with response := some { status := Status.code e, r0 := 0, r1 := 0, r2 := 0, r3 := 0 } }

/-- The status of the last response is OK. -/
def State.answeredOk (s : State) : Bool :=
  match s.response with
  | some r => r.status == Status.code .ok
  | none => false

/-! ## Reset input -/

/-- Every piece of state at its reset value, with a fresh draw of the unspecified contents and the
reset input as given; what was presented is gone (70_reset_and_hazards.md R260, R261; assumption
log 5). The count of accepted requests goes on, so that the arbitration draws do not repeat. -/
def State.takeReset (s : State) (line : Bool) : State :=
  { State.resetOf s.cfg (s.epoch + 1) with resetLine := line, accepted := s.accepted }

/-- One step with reset asserted: no request is performed, and the input stays as the environment
drives it (70_reset_and_hazards.md R261). -/
def State.holdReset (s : State) : State := s.takeReset s.resetLine

/-- The environment drives the reset input. Asserting it resets at once, and so does the release of an
asserted reset, so that at the release every piece of state holds its reset value and nothing
presented under reset is left, whether or not a step was taken in between (70_reset_and_hazards.md
R260, R261; assumption log 5). -/
def State.driveReset (s : State) : Bool → State
  | true => s.takeReset true
  | false => if s.resetLine then s.takeReset false else s

/-! ## Presenting and accepting requests (20_memory.md R59, R60) -/

/-- The environment presents a request at the requester port. One presented while reset is asserted is
lost: it is not performed (70_reset_and_hazards.md R261; assumption log 5). -/
def State.present (s : State) (r : Request) : State :=
  { s with requesterQ := if s.resetLine then s.requesterQ else s.requesterQ ++ [r] }

/-- The environment presents a request word at the producer port, lost while reset is asserted. -/
def State.presentProducer (s : State) (w : RequestWord) : State :=
  { s with producerQ := if s.resetLine then s.producerQ else s.producerQ ++ [w] }

/-- Puts a request before those waiting at the requester port, with nothing waiting at the producer
port. -/
def State.placeFirst (s : State) (r : Request) : State :=
  { s with producerQ := [], requesterQ := r :: s.requesterQ }

/-- Puts a request where the next step accepts it, releasing an asserted reset first (assumption
log 4). -/
def State.presentFirst (s : State) (r : Request) : State := (s.driveReset false).placeFirst r

/-- The port served next: the one where a request waits, and where both have one, the port the free
arbitration draw names (20_memory.md R60, 60_exceptions.md R238; assumption log 6). A one-port build
has no producer port, and nothing is accepted there. -/
def State.servedPort (s : State) : Option Port :=
  match s.producerQ, s.requesterQ with
  | [], [] => none
  | [], _ :: _ => some .requester
  | _ :: _, [] => if s.cfg.ports = 2 then some .producer else none
  | _ :: _, _ :: _ => if s.cfg.ports = 2 then some (Config.arbiter s.accepted) else some .requester

/-- An accepted request: its instruction and the state the instruction runs on. -/
structure Accepted where
  instr : Instr
  state : State
  deriving DecidableEq, Repr

/-- Accepts the oldest request of the served port, decodes it as that port does, and takes its bytes
off the queue. -/
def State.accept (s : State) : Option Accepted :=
  match s.servedPort, s.producerQ, s.requesterQ with
  | some .producer, w :: ws, _ =>
    some { instr := decodeProducer w
           state := { s with producerQ := ws, acceptedFrom := .producer, accepted := s.accepted + 1 } }
  | some .requester, _, r :: rs =>
    some { instr := (decode r).1
           state := { s with
             requesterQ := (decode r).2 ++ rs
             acceptedFrom := .requester
             accepted := s.accepted + 1 } }
  | _, _, _ => none

end Sys2Proof.Machine
end

