-- ==== Sys2Proof/Machine/Flags.lean ====
section
/-! DEFINITION. Every flag the block computes: the fields of PKT_STATUS (10_state.md R31, R32) and
the flag bits of the DEC_BYTE response (40_codec.md R103). -/

namespace Sys2Proof.Machine

/-- The numeric outcome codes (10_state.md R32). -/
def PktCode.code : PktCode → BitVec 3
  | .empty => 0
  | .incomplete => 1
  | .heldInvalid => 2
  | .valid => 3
  | .resync => 4

/-- PKT_STATUS <- zext_8(cz : rec : ovf : forced : code[2:0]) (42_parser.md R160, R173). -/
def packStatus (code : PktCode) (forced ovf recovered cz : Bool) : Byte :=
  0#1 ++ BitVec.ofBool cz ++ BitVec.ofBool recovered ++ BitVec.ofBool ovf ++ BitVec.ofBool forced ++
    code.code

/-- PKT_STATUS.CODE, bits 2:0. -/
def statusCode (st : Byte) : BitVec 3 := st.extractLsb' 0 3

/-- PKT_STATUS.FORCED, bit 3. -/
def statusForced (st : Byte) : Bool := st.getLsbD 3

/-- PKT_STATUS.OVERFLOW, bit 4. -/
def statusOverflow (st : Byte) : Bool := st.getLsbD 4

/-- PKT_STATUS.RECOVERED, bit 5. -/
def statusRecovered (st : Byte) : Bool := st.getLsbD 5

/-- PKT_STATUS.CMD_ZERO, bit 6. -/
def statusCmdZero (st : Byte) : Bool := st.getLsbD 6

/-- PKT_STATUS bit 7, reserved. -/
def statusReserved (st : Byte) : Bool := st.getLsbD 7

/-- DEC_BYTE r1 = zext_8(is_start : esc_out : has_out) (40_codec.md R103). -/
def packDecFlags (isStart escOut hasOut : Bool) : Byte :=
  0#5 ++ BitVec.ofBool isStart ++ BitVec.ofBool escOut ++ BitVec.ofBool hasOut

end Sys2Proof.Machine
end

