-- ==== Sys2Proof/Machine/Codec.lean ====
section
/-! DEFINITION. The byte-stuffing codec and the checksum (40_codec.md), and the two operations that
expose them: ENC_BYTE and DEC_BYTE. -/

namespace Sys2Proof.Machine

/-- START (00_scope.md R8). -/
def START : Byte := 0xFF

/-- ESCAPE (00_scope.md R8). -/
def ESCAPE : Byte := 0xFD

/-- STUFF (40_codec.md R100). -/
def stuff (raw : Byte) : List Byte :=
  if raw = START ∨ raw = ESCAPE then [ESCAPE, raw - 1] else [raw]

/-- STUFFSEQ (40_codec.md R108). -/
def stuffSeq (seq : List Byte) : List Byte := seq.flatMap stuff

/-- What one step of the stream decoder returns (40_codec.md R102). -/
structure DecStep where
  hasOut : Bool
  raw : Byte
  escOut : Bool
  deriving DecidableEq, Repr

/-- DEC, one step of the stream decoder (40_codec.md R102). -/
def dec (wire : Byte) (escIn : Bool) : DecStep :=
  if escIn then { hasOut := true, raw := wire + 1, escOut := false }
  else if wire = ESCAPE then { hasOut := false, raw := 0x00, escOut := true }
  else { hasOut := true, raw := wire, escOut := false }

/-- UNSTUFF from a given escape flag. -/
def unstuffFrom (esc : Bool) : List Byte → List Byte
  | [] => []
  | x :: xs =>
    if (dec x esc).hasOut then (dec x esc).raw :: unstuffFrom (dec x esc).escOut xs
    else unstuffFrom (dec x esc).escOut xs

/-- UNSTUFF of a region with no START (40_codec.md R110). -/
def unstuff (w : List Byte) : List Byte := unstuffFrom false w

/-- CHK, eight-bit wraparound subtraction from 0 (40_codec.md R105). -/
def chk (seq : List Byte) : Byte := seq.foldl (fun c b => c - b) 0

/-- ENC_BYTE (40_codec.md R101). -/
def execEncByte (raw : Byte) (s : State) : Host.Outcome State Fault Refusal :=
  .next (s.respond ((stuff raw).getD 0 0) ((stuff raw).getD 1 0) 0 (BitVec.ofNat 9 (stuff raw).length))

/-- One step of the stream decoder with its DEC_BYTE response (40_codec.md R103). -/
def State.decStep (s : State) (wire : Byte) (escIn : Bool) : State :=
  s.respond (dec wire escIn).raw
    (packDecFlags (wire == START) (dec wire escIn).escOut (dec wire escIn).hasOut) 0 0

/-- DEC_BYTE (40_codec.md R103). -/
def execDecByte (wire : Byte) (escIn : Bool) (s : State) : Host.Outcome State Fault Refusal :=
  .next (s.decStep wire escIn)

end Sys2Proof.Machine
end

