-- ==== Sys2Proof/Machine/Operands.lean ====
section
/-! DEFINITION. The operand checks: which index and cursor operands each operation accepts
(60_exceptions.md R231, R232). -/

namespace Sys2Proof.Machine

/-- RX_PEEK: the offset names an unread byte (41_rxbuffer.md R133). -/
def State.peekOk (s : State) (offset : Byte) : Bool := decide (offset.toNat < s.pending)

/-- RX_READ_AT: every index is reduced modulo RX_CAP (41_rxbuffer.md R134). -/
def State.readAtIndex (s : State) (index : Byte) : Nat := index.toNat % s.cfg.rxCap

/-- RX_ADVANCE, first check: the new tail is a cursor value (41_rxbuffer.md R135). -/
def State.cursorOk (s : State) (newTail : Byte) : Bool := decide (newTail.toNat < s.cfg.rxCap)

/-- RX_ADVANCE, second check: the distance from TAIL does not pass HEAD (41_rxbuffer.md R135). -/
def State.advanceOk (s : State) (newTail : Byte) : Bool :=
  decide (modSub newTail.toNat s.tail.toNat s.cfg.rxCap ≤ s.pending)

/-- SCRATCH_READ: the index is below MAX_PACKET (42_parser.md R180). -/
def State.scratchOk (s : State) (i : Byte) : Bool := decide (i.toNat < s.cfg.maxPacket)

/-- TX_LOAD: the index is below MAX_DATA (43_encoder.md R200). -/
def State.txDataOk (s : State) (i : Byte) : Bool := decide (i.toNat < s.cfg.maxData)

/-- ENCODE: the length is at most MAX_DATA (43_encoder.md R201). -/
def State.lenOk (s : State) (len : Byte) : Bool := decide (len.toNat ≤ s.cfg.maxData)

/-- TX_READ: the index is below TX_LEN (43_encoder.md R204). -/
def State.txReadOk (s : State) (i : Word9) : Bool := decide (i.toNat < s.txLen.toNat)

end Sys2Proof.Machine
end

