-- ==== Sys2Proof/Machine/Encoder.lean ====
section
/-! DEFINITION. The packet encoder (43_encoder.md): TX_LOAD, ENCODE, TX_READ. -/

namespace Sys2Proof.Machine

/-- TX_LOAD (43_encoder.md R200). -/
def execTxLoad (i byte : Byte) (s : State) : Host.Outcome State Fault Refusal :=
  if s.txDataOk i then .next ((s.writeTxData i.toNat byte).respond 0 0 0 0)
  else .next (s.raise .range)

/-- CHK of a packet: START, command, length and payload (40_codec.md R105, 43_encoder.md R201). -/
def packetChk (cmd len : Byte) (data : List Byte) : Byte := chk ([START, cmd, len] ++ data)

/-- FRAME(cmd, len, data, c) (43_encoder.md R202). -/
def frame (cmd len : Byte) (data : List Byte) (c : Byte) : List Byte :=
  START :: stuffSeq ([cmd, len] ++ data ++ [c])

/-- Serialising a packet whose command and length are accepted (43_encoder.md R201, R203). -/
def State.encodePacket (s : State) (cmd len delta : Byte) : State :=
  let data := s.readSlice .txData 0 len.toNat
  let c0 := packetChk cmd len data
  let w := frame cmd len data (c0 + delta)
  (s.writeFrame w).respond (c0 + delta) c0 0 (BitVec.ofNat 9 w.length)

/-- ENCODE with its two checks in order (43_encoder.md R201, 60_exceptions.md R232). -/
def State.encodeChecked (s : State) (cmd len delta : Byte) : State :=
  if cmd = 0x00 then s.raise .encCmd
  else if !s.lenOk len then s.raise .encLen
  else s.encodePacket cmd len delta

/-- ENCODE (43_encoder.md R201). -/
def execEncode (cmd len delta : Byte) (s : State) : Host.Outcome State Fault Refusal :=
  .next (s.encodeChecked cmd len delta)

/-- TX_READ (43_encoder.md R204). -/
def execTxRead (i : Word9) (s : State) : Host.Outcome State Fault Refusal :=
  if s.txReadOk i then .next (s.respond (s.readByte .txWire i.toNat) 0 0 0)
  else .next (s.raise .range)

/-- The BoardInfo payload layout (30_encoding.md R77); the block carries it opaquely. The three
fields without a stated value belong to the sender (93 U15). -/
structure BoardInfo where
  model : Vector Byte 8
  chipNumber : Vector Byte 5
  reserved1 : Byte
  firmwareVersion : Byte
  reserved2 : Vector Byte 2
  deriving DecidableEq, Repr

/-- The 18 payload bytes of a BoardInfo, device_class being 0xA0 (30_encoding.md R77). -/
def BoardInfo.payload (b : BoardInfo) : List Byte :=
  b.model.toList ++ [0xA0] ++ b.chipNumber.toList ++ [b.reserved1, b.firmwareVersion] ++
    b.reserved2.toList

end Sys2Proof.Machine
end

