-- ==== Sys2Proof/Machine/Commands.lean ====
section
/-! DEFINITION. The command rows of the opcode table: the encoder run on that command byte, with the
payload staged in TXDATA and no checksum offset. The block encodes every command but 0x00 as given
and gives no command a meaning of its own (30_encoding.md R74 to R76). DESIGN CHOICE, assumption
log 8. -/

namespace Sys2Proof.Machine

/-- CMD_RESERVED_ZERO: never a real command; the encoder refuses it with ENC_CMD (30_encoding.md
R75, 43_encoder.md R201). -/
def execCmdReservedZero (len : Byte) (s : State) : Host.Outcome State Fault Refusal :=
  .next (s.encodeChecked 0x00 len 0)

/-- CMD_SCAN_REPORT, command 0x01 (30_encoding.md R74). -/
def execCmdScanReport (len : Byte) (s : State) : Host.Outcome State Fault Refusal :=
  .next (s.encodeChecked 0x01 len 0)

/-- CMD_SET_LED, command 0x02 (30_encoding.md R74). -/
def execCmdSetLed (len : Byte) (s : State) : Host.Outcome State Fault Refusal :=
  .next (s.encodeChecked 0x02 len 0)

/-- CMD_AUTOSCAN_ON, command 0x03 (30_encoding.md R74). -/
def execCmdAutoscanOn (len : Byte) (s : State) : Host.Outcome State Fault Refusal :=
  .next (s.encodeChecked 0x03 len 0)

/-- CMD_AUTOSCAN_OFF, command 0x04 (30_encoding.md R74). -/
def execCmdAutoscanOff (len : Byte) (s : State) : Host.Outcome State Fault Refusal :=
  .next (s.encodeChecked 0x04 len 0)

/-- CMD_VENDOR_06, command 0x06 (30_encoding.md R74). -/
def execCmdVendor06 (len : Byte) (s : State) : Host.Outcome State Fault Refusal :=
  .next (s.encodeChecked 0x06 len 0)

/-- CMD_VENDOR_07, command 0x07 (30_encoding.md R74). -/
def execCmdVendor07 (len : Byte) (s : State) : Host.Outcome State Fault Refusal :=
  .next (s.encodeChecked 0x07 len 0)

/-- CMD_VENDOR_09, command 0x09 (30_encoding.md R74). -/
def execCmdVendor09 (len : Byte) (s : State) : Host.Outcome State Fault Refusal :=
  .next (s.encodeChecked 0x09 len 0)

/-- CMD_VENDOR_0A, command 0x0A (30_encoding.md R74). -/
def execCmdVendor0A (len : Byte) (s : State) : Host.Outcome State Fault Refusal :=
  .next (s.encodeChecked 0x0A len 0)

/-- CMD_VENDOR_0B, command 0x0B (30_encoding.md R74). -/
def execCmdVendor0B (len : Byte) (s : State) : Host.Outcome State Fault Refusal :=
  .next (s.encodeChecked 0x0B len 0)

/-- CMD_VENDOR_0C, command 0x0C (30_encoding.md R74). -/
def execCmdVendor0C (len : Byte) (s : State) : Host.Outcome State Fault Refusal :=
  .next (s.encodeChecked 0x0C len 0)

/-- CMD_DETECT, command 0x10 (30_encoding.md R74). -/
def execCmdDetect (len : Byte) (s : State) : Host.Outcome State Fault Refusal :=
  .next (s.encodeChecked 0x10 len 0)

/-- CMD_EXCEPTION, command 0xEE (30_encoding.md R74); a command like any other (60_exceptions.md R234). -/
def execCmdException (len : Byte) (s : State) : Host.Outcome State Fault Refusal :=
  .next (s.encodeChecked 0xEE len 0)

/-- CMD_BOARD_INFO, command 0xF0 (30_encoding.md R74); its response payload is BoardInfo (R77). -/
def execCmdBoardInfo (len : Byte) (s : State) : Host.Outcome State Fault Refusal :=
  .next (s.encodeChecked 0xF0 len 0)

/-- CMD_OTHER: passed through unchanged (30_encoding.md R74, 90_conflicts.md C10). -/
def execCmdOther (cmd len : Byte) (s : State) : Host.Outcome State Fault Refusal :=
  .next (s.encodeChecked cmd len 0)

end Sys2Proof.Machine
end

