-- ==== Sys2Proof/Machine/Illegal.lean ====
section
/-! DEFINITION. A request word whose OP names no operation at its port. -/

namespace Sys2Proof.Machine

/-- ILLEGAL: answers ILLEGAL_OP and changes nothing, whatever the OP was (30_encoding.md R82,
60_exceptions.md R231, R239). -/
def execIllegal (_op : Byte) (s : State) : Host.Outcome State Fault Refusal :=
  .next (s.raise .illegalOp)

end Sys2Proof.Machine
end

