-- ==== Sys2Proof/Machine/Parser.lean ====
section
/-! DEFINITION. The framing parser (42_parser.md): DECODE_NEXT, its phases, the packet view, and
SCRATCH_READ. -/

namespace Sys2Proof.Machine

/-- FIND_START: the least offset from `start` on whose byte is a wire 0xFF (42_parser.md R162). -/
def findStart (w : List Byte) (start : Nat) : Option Nat :=
  ((w.drop start).findIdx? (fun b => b == START)).map (fun i => i + start)

/-- The locals of FILL_SCRATCH (42_parser.md R166). -/
structure Fill where
  scratch : Memory
  k : Nat
  esc : Bool
  ovf : Bool
  deriving DecidableEq, Repr

/-- One byte of FILL_SCRATCH's loop (42_parser.md R166). -/
def fillByte (maxPacket : Nat) (f : Fill) (x : Byte) : Fill :=
  if (dec x f.esc).hasOut then
    if f.k < maxPacket then
      { scratch := f.scratch.write f.k (dec x f.esc).raw
        k := f.k + 1
        esc := (dec x f.esc).escOut
        ovf := f.ovf }
    else { f with esc := (dec x f.esc).escOut, ovf := true }
  else { f with esc := (dec x f.esc).escOut }

/-- FILL_SCRATCH over a region's bytes after its START (42_parser.md R166). -/
def fillScratch (maxPacket : Nat) (scratch : Memory) (region : List Byte) : Fill :=
  region.foldl (fillByte maxPacket) { scratch := scratch.write 0 START, k := 1, esc := false, ovf := false }

/-- CHECK_OK(S, L): CHK(S[0 .. 3 + L)) = S[3 + L] (40_codec.md R107). -/
def checkOk (at_ : Nat → Byte) (len : Nat) : Bool :=
  chk ((List.range (3 + len)).map at_) == at_ (3 + len)

/-- What DECODE_NEXT writes back: its result fields, the scratch contents and the new TAIL. -/
structure Parse where
  code : PktCode
  cmd : Byte
  len : Byte
  k : Nat
  forced : Bool
  ovf : Bool
  recovered : Bool
  cmdZero : Bool
  scratch : Memory
  newTail : Nat
  deriving DecidableEq, Repr

/-- The buffer is full in DECODE_NEXT's snapshot: n = RX_CAP - 1 (42_parser.md R172). -/
def State.snapshotFull (s : State) : Bool := s.pending == s.cfg.rxCap - 1

/-- No START in the window (42_parser.md R163, R172 case 1). -/
def State.parseEmpty (s : State) : Parse :=
  { code := .empty, cmd := 0x00, len := 0x00, k := 0
    forced := false, ovf := false, recovered := s.snapshotFull, cmdZero := false
    scratch := s.scratch
    newTail := if s.snapshotFull then s.head.toNat else s.tail.toNat }

/-- A START at offset `st`, and a second one at `second` if there is one (42_parser.md R164 to
R172). -/
def State.parseFrom (s : State) (st : Nat) (second : Option Nat) : Parse :=
  let n := s.pending
  let stop := second.getD n
  let f := fillScratch s.cfg.maxPacket s.scratch ((s.window.take stop).drop (st + 1))
  let at_ := cellAt s.epoch .scratch f.scratch
  let complete := decide (3 ≤ f.k) && decide ((at_ 2).toNat + 4 ≤ f.k)
  let ok := complete && checkOk at_ (at_ 2).toNat
  let cz := ok && at_ 1 == 0x00
  let valid := ok && !cz
  match second with
  | some e =>
    { code := if valid then .valid else .resync
      cmd := if 2 ≤ f.k then at_ 1 else 0x00
      len := if 3 ≤ f.k then at_ 2 else 0x00
      k := f.k, forced := true, ovf := f.ovf, recovered := false, cmdZero := cz
      scratch := f.scratch
      newTail := (s.tail.toNat + e) % s.cfg.rxCap }
  | none =>
    if valid then
      { code := .valid, cmd := at_ 1, len := at_ 2
        k := f.k, forced := false, ovf := f.ovf, recovered := false, cmdZero := cz
        scratch := f.scratch
        newTail := s.head.toNat }
    else
      { code := if complete then .heldInvalid else .incomplete
        cmd := 0x00, len := 0x00
        k := f.k, forced := false, ovf := f.ovf, recovered := s.snapshotFull, cmdZero := cz
        scratch := f.scratch
        newTail :=
          if s.snapshotFull then
            if 0 < st then (s.tail.toNat + st) % s.cfg.rxCap else (s.tail.toNat + 1) % s.cfg.rxCap
          else s.tail.toNat }

/-- The parse of the window (42_parser.md R160). -/
def State.parse (s : State) : Parse :=
  match findStart s.window 0 with
  | none => s.parseEmpty
  | some st => s.parseFrom st (findStart s.window (st + 1))

/-- PKT_STATUS of a parse (42_parser.md R173). -/
def Parse.status (p : Parse) : Byte := packStatus p.code p.forced p.ovf p.recovered p.cmdZero

/-- The write-back of DECODE_NEXT, all at once (42_parser.md R173). -/
def State.commitParse (s : State) (p : Parse) : State :=
  { s with
    scratch := p.scratch
    tail := BitVec.ofNat 8 p.newTail
    pktCmd := p.cmd
    pktLen := p.len
    pktCount := BitVec.ofNat 9 p.k
    pktStatus := p.status }

/-- DECODE_NEXT (42_parser.md R160). -/
def execDecodeNext (s : State) : Host.Outcome State Fault Refusal :=
  .next ((s.commitParse s.parse).respond s.parse.cmd s.parse.len s.parse.status
    (BitVec.ofNat 9 s.parse.k))

/-- SCRATCH_READ (42_parser.md R180). -/
def execScratchRead (i : Byte) (s : State) : Host.Outcome State Fault Refusal :=
  if s.scratchOk i then .next (s.respond (s.readByte .scratch i.toNat) 0 0 0)
  else .next (s.raise .range)

/-- The document's `Packet` value (10_state.md R33). -/
structure Packet where
  command : Byte
  dataLength : Byte
  isValid : Bool
  data : List Byte
  deriving DecidableEq, Repr

/-- The packet as the result registers and the SCRATCH view give it (10_state.md R33). A RESYNC can
report a length whose view runs past SCRATCH's last entry; the spec does not say what the view holds
there, and SCRATCH_READ answers RANGE. DESIGN CHOICE: the view then lists a free byte for each index
at MAX_PACKET and above; assumption log 16. -/
def State.packet (s : State) : Packet :=
  { command := s.pktCmd
    dataLength := s.pktLen
    isValid := statusCode s.pktStatus == PktCode.code .valid
    data := s.readSlice .scratch 3 s.pktLen.toNat }

end Sys2Proof.Machine
end

