-- ==== Sys2Proof/Machine/RxBuffer.lean ====
section
/-! DEFINITION. The circular receive buffer's operations (41_rxbuffer.md). -/

namespace Sys2Proof.Machine

/-- RX_WRITE (41_rxbuffer.md R130). -/
def execRxWrite (byte : Byte) (s : State) : Host.Outcome State Fault Refusal :=
  if s.full then .next (s.raise .full)
  else
    let s' := (s.writeRx s.head.toNat byte).setHead ((s.head.toNat + 1) % s.cfg.rxCap)
    .next (s'.respond 0 0 0 (BitVec.ofNat 9 s'.pending))

/-- RX_PENDING (41_rxbuffer.md R132). -/
def execRxPending (s : State) : Host.Outcome State Fault Refusal :=
  .next (s.respond s.head s.tail 0 (BitVec.ofNat 9 s.pending))

/-- RX_PEEK (41_rxbuffer.md R133). -/
def execRxPeek (offset : Byte) (s : State) : Host.Outcome State Fault Refusal :=
  if s.peekOk offset then
    .next (s.respond (s.readByte .rxbuf (s.windowIndex offset.toNat)) 0 0 0)
  else .next (s.raise .range)

/-- RX_READ_AT (41_rxbuffer.md R134). -/
def execRxReadAt (index : Byte) (s : State) : Host.Outcome State Fault Refusal :=
  .next (s.respond (s.readByte .rxbuf (s.readAtIndex index)) 0 0 0)

/-- RX_ADVANCE (41_rxbuffer.md R135). -/
def execRxAdvance (newTail : Byte) (s : State) : Host.Outcome State Fault Refusal :=
  if !s.cursorOk newTail then .next (s.raise .range)
  else if !s.advanceOk newTail then .next (s.raise .range)
  else
    let s' := s.setTail newTail.toNat
    .next (s'.respond 0 0 0 (BitVec.ofNat 9 s'.pending))

end Sys2Proof.Machine
end

