-- ==== Sys2Proof/Machine/WireUnits.lean ====
section
/-! DEFINITION. The wire rows of the opcode table: what the block's stream decoder makes of one wire
byte or one escape pair. Each hands its bytes to the DEC step in wire order, the escape flag starting
at 0 and passed on as DEC_BYTE reports it (40_codec.md R102, R103; 10_state.md R37). No state but the
response changes; DESIGN CHOICE, assumption log 7. -/

namespace Sys2Proof.Machine

/-- A pair FD x: the ESCAPE is consumed without output, and x completes the pair (30_encoding.md
R71, R88). -/
def State.decPair (s : State) (x : Byte) : State :=
  (s.decStep ESCAPE false).decStep x (dec ESCAPE false).escOut

/-- START: reported as a boundary by IS_START (30_encoding.md R70, 40_codec.md R103). -/
def execStart (s : State) : Host.Outcome State Fault Refusal := .next (s.decStep START false)

/-- ESCAPE: consumed, no output yet (30_encoding.md R70, 40_codec.md R102). -/
def execEscape (s : State) : Host.Outcome State Fault Refusal := .next (s.decStep ESCAPE false)

/-- LITERAL: stands for itself (30_encoding.md R70). -/
def execLiteral (value : Byte) (s : State) : Host.Outcome State Fault Refusal :=
  .next (s.decStep value false)

/-- ESC_START: the pair of raw 0xFF (30_encoding.md R71). -/
def execEscStart (s : State) : Host.Outcome State Fault Refusal := .next (s.decPair 0xFE)

/-- ESC_ESCAPE: the pair of raw 0xFD (30_encoding.md R71). -/
def execEscEscape (s : State) : Host.Outcome State Fault Refusal := .next (s.decPair 0xFC)

/-- ESC_PAIR: any other pair decodes to (x + 1) mod 256 (30_encoding.md R88). -/
def execEscPair (x : Byte) (s : State) : Host.Outcome State Fault Refusal := .next (s.decPair x)

end Sys2Proof.Machine
end

