-- ==== Sys2Proof/Machine/Dispatch.lean ====
section
/-! DEFINITION. exec: one arm per constructor of Instr, each one call of its meaning. -/

namespace Sys2Proof.Machine

def exec (i : Instr) (s : State) : Host.Outcome State Fault Refusal :=
  match i with
  | .encByte raw => Sys2Proof.Machine.execEncByte raw s
  | .decByte wire escIn => Sys2Proof.Machine.execDecByte wire escIn s
  | .rxWrite byte => Sys2Proof.Machine.execRxWrite byte s
  | .rxPending => Sys2Proof.Machine.execRxPending s
  | .rxPeek offset => Sys2Proof.Machine.execRxPeek offset s
  | .rxReadAt index => Sys2Proof.Machine.execRxReadAt index s
  | .rxAdvance newTail => Sys2Proof.Machine.execRxAdvance newTail s
  | .decodeNext => Sys2Proof.Machine.execDecodeNext s
  | .scratchRead idx => Sys2Proof.Machine.execScratchRead idx s
  | .txLoad idx byte => Sys2Proof.Machine.execTxLoad idx byte s
  | .encode cmd len delta => Sys2Proof.Machine.execEncode cmd len delta s
  | .txRead idx => Sys2Proof.Machine.execTxRead idx s
  | .illegal op => Sys2Proof.Machine.execIllegal op s
  | .start => Sys2Proof.Machine.execStart s
  | .escape => Sys2Proof.Machine.execEscape s
  | .literal value => Sys2Proof.Machine.execLiteral value s
  | .escStart => Sys2Proof.Machine.execEscStart s
  | .escEscape => Sys2Proof.Machine.execEscEscape s
  | .escPair x => Sys2Proof.Machine.execEscPair x s
  | .cmdReservedZero len => Sys2Proof.Machine.execCmdReservedZero len s
  | .cmdScanReport len => Sys2Proof.Machine.execCmdScanReport len s
  | .cmdSetLed len => Sys2Proof.Machine.execCmdSetLed len s
  | .cmdAutoscanOn len => Sys2Proof.Machine.execCmdAutoscanOn len s
  | .cmdAutoscanOff len => Sys2Proof.Machine.execCmdAutoscanOff len s
  | .cmdVendor06 len => Sys2Proof.Machine.execCmdVendor06 len s
  | .cmdVendor07 len => Sys2Proof.Machine.execCmdVendor07 len s
  | .cmdVendor09 len => Sys2Proof.Machine.execCmdVendor09 len s
  | .cmdVendor0A len => Sys2Proof.Machine.execCmdVendor0A len s
  | .cmdVendor0B len => Sys2Proof.Machine.execCmdVendor0B len s
  | .cmdVendor0C len => Sys2Proof.Machine.execCmdVendor0C len s
  | .cmdDetect len => Sys2Proof.Machine.execCmdDetect len s
  | .cmdException len => Sys2Proof.Machine.execCmdException len s
  | .cmdBoardInfo len => Sys2Proof.Machine.execCmdBoardInfo len s
  | .cmdOther cmd len => Sys2Proof.Machine.execCmdOther cmd len s

end Sys2Proof.Machine
end

