-- ==== Sys2Proof/Machine/Step.lean ====
section
/-! DEFINITION. One step of the block, and where the next instruction is placed. -/

namespace Sys2Proof.Machine

/-- One step. With reset asserted, no request is performed (70_reset_and_hazards.md R261). Else the
next request in acceptance order is accepted and performed whole (00_scope.md R14, 20_memory.md
R59). With nothing waiting, the block idles: only operations change state (20_memory.md R58). -/
def step (s : State) : Host.Outcome State Fault Refusal :=
  if s.resetLine then .next s.holdReset
  else
    match s.accept with
    | none => .next s
    | some a => exec a.instr a.state

/-- `s` with the instruction of a table word presented where the next step accepts it. -/
def State.withFetchWord (s : State) (nbits w : Nat) : State :=
  match tableRequest nbits w with
  | .ok r => s.presentFirst r
  | .error _ => s

end Sys2Proof.Machine
end

