-- ==== Sys2Proof/Machine/Requester.lean ====
section
/-! DEFINITION. The pseudo-operations of 30_encoding.md R87: what a requester does with several
requests, branching on their responses. They run requests through `exec` and are no instructions of
the block (60_exceptions.md R240); assumption log 11. -/

namespace Sys2Proof.Machine

/-- Requests performed one after another. -/
def execAll : List Instr → State → Host.Outcome State Fault Refusal
  | [], s => .next s
  | i :: is, s =>
    match exec i s with
    | .next t => execAll is t
    | .fault e => .fault e
    | .refused r => .refused r

/-- RX_WRITE_N: RX_WRITE of each byte in turn, stopping after the first that does not answer OK. It
gives the count written and the state after (30_encoding.md R87, 41_rxbuffer.md R131). -/
def rxWriteN : List Byte → State → Nat × State
  | [], s => (0, s)
  | b :: bs, s =>
    match exec (.rxWrite b) s with
    | .next t =>
      if t.answeredOk then ((rxWriteN bs t).1 + 1, (rxWriteN bs t).2) else (0, t)
    | .fault _ => (0, s)
    | .refused _ => (0, s)

/-- TX_LOAD of a payload from index `i` on. The operand is a byte; DESIGN CHOICE: an index of a longer
payload is cut to its low 8 bits (assumption log 17). -/
def loadPayload (i : Nat) : List Byte → List Instr
  | [] => []
  | d :: ds => .txLoad (BitVec.ofNat 8 i) d :: loadPayload (i + 1) ds

/-- The requests of SEND_CORRUPT up to its ENCODE. The length of a payload of more than 255 bytes is
cut to its low 8 bits, as the index of TX_LOAD is (assumption log 17). -/
def encodeRequests (cmd : Byte) (data : List Byte) (delta : Byte) : List Instr :=
  loadPayload 0 data ++ [.encode cmd (BitVec.ofNat 8 data.length) delta]

/-- The field r0 of the last response, 0 where nothing has answered. -/
def State.answeredByte (s : State) : Byte :=
  match s.response with
  | some r => r.r0
  | none => 0

/-- TX_READ i, TX_READ i + 1, and so on, `n` of them. It gives the bytes answered, in order, and the
state after, or nothing where a request stops. -/
def readFrame (i : Nat) : Nat → State → Option (List Byte × State)
  | 0, s => some ([], s)
  | n + 1, s =>
    match exec (.txRead (BitVec.ofNat 9 i)) s with
    | .next t => (readFrame (i + 1) n t).map (fun p => (t.answeredByte :: p.1, p.2))
    | .fault _ => none
    | .refused _ => none

/-- SEND_CORRUPT: the payload's TX_LOADs, ENCODE with the offset `delta`, then TX_READ 0 ..
TX_LEN - 1. It gives the bytes the TX_READs answer, in order, and the state after (30_encoding.md
R87). The expansion branches on no response: after a refused ENCODE it reads the frame that is still
there (assumption log 17). -/
def sendCorrupt (cmd : Byte) (data : List Byte) (delta : Byte) (s : State) :
    Option (List Byte × State) :=
  match execAll (encodeRequests cmd data delta) s with
  | .next t => readFrame 0 t.txLen.toNat t
  | .fault _ => none
  | .refused _ => none

/-- SEND: SEND_CORRUPT with no offset (30_encoding.md R87). -/
def send (cmd : Byte) (data : List Byte) (s : State) : Option (List Byte × State) :=
  sendCorrupt cmd data 0 s

/-- The wire bytes of the last frame, TXWIRE[0 .. TX_LEN) (10_state.md R35). -/
def State.wireBytes (s : State) : List Byte := s.readSlice .txWire 0 s.txLen.toNat

/-- A DECODE_NEXT result that reports 'no packet': EMPTY, INCOMPLETE or HELD_INVALID
(30_encoding.md R87, 42_parser.md R175). -/
def noPacket (st : Byte) : Bool :=
  statusCode st == PktCode.code .empty || statusCode st == PktCode.code .incomplete ||
    statusCode st == PktCode.code .heldInvalid

/-- DRAIN within a number of calls: DECODE_NEXT until it reports 'no packet'. It gives the state
after and the number of calls, or nothing where the calls run out (30_encoding.md R87,
42_parser.md R176). -/
def drain : Nat → State → Option (Nat × State)
  | 0, _ => none
  | calls + 1, s =>
    match exec .decodeNext s with
    | .next t =>
      if noPacket t.pktStatus then some (1, t) else (drain calls t).map (fun p => (p.1 + 1, p.2))
    | .fault _ => none
    | .refused _ => none

/-- Each byte in turn is written with RX_WRITE and followed by one DECODE_NEXT, as in
42_parser.md R178. It gives the state after each DECODE_NEXT, or nothing where a request stops. -/
def feedAndParse : List Byte → State → Option (List State)
  | [], _ => some []
  | b :: bs, s =>
    match execAll [.rxWrite b, .decodeNext] s with
    | .next t => (feedAndParse bs t).map (fun ts => t :: ts)
    | .fault _ => none
    | .refused _ => none

end Sys2Proof.Machine
end

