-- ==== Sys2Proof/Safety.lean ====
section
/-! DEFINITION. What counts as a good state and a good step, and the words the statements use: the
invariants, the frames, and the spec's reading of a window as a span of raw bytes. -/

namespace Sys2Proof.Machine

/-! ## Good states -/

/-- A legal build whose cursors are legal indices (00_scope.md R6; 10_state.md R24, R25). -/
abbrev State.CursorsLegal (s : State) : Prop :=
  s.cfg.Legal ∧ s.head.toNat < s.cfg.rxCap ∧ s.tail.toNat < s.cfg.rxCap

/-- The contents of a space are canonical and stay inside the space (20_memory.md R50, R51). -/
abbrev State.SpaceOk (s : State) (sp : Space) : Prop :=
  (s.mem sp).wf ∧ (s.mem sp).below (s.cfg.size sp)

/-- The invariant of the block: a legal build and legal cursors; the four arrays canonical and inside
their sizes; PKT_COUNT and TX_LEN in range (10_state.md R30, R36); PKT_STATUS.CODE never 5 .. 7 and
bit 7 always 0 (R31, R32); START at SCRATCH[0] and TXWIRE[0] where the spec fixes them
(20_memory.md R52); and no reserved response status (60_exceptions.md R231). -/
abbrev State.Inv (s : State) : Prop :=
  s.CursorsLegal ∧
  (s.SpaceOk .rxbuf ∧ s.SpaceOk .scratch ∧ s.SpaceOk .txData ∧ s.SpaceOk .txWire) ∧
  s.pktCount.toNat ≤ s.cfg.maxPacket ∧ s.txLen.toNat ≤ s.cfg.maxWire ∧
  (statusCode s.pktStatus).toNat ≤ 4 ∧ statusReserved s.pktStatus = false ∧
  (0 < s.pktCount.toNat → s.readByte .scratch 0 = START) ∧
  (0 < s.txLen.toNat → s.readByte .txWire 0 = START) ∧
  (∀ r ∈ s.response, r.status.toNat ≤ 5)

/-- The packet result registers agree with each other as the outcome table fixes them
(10_state.md R28 to R33; 42_parser.md R168 to R173): a 'no packet' code reports command and length
0x00; VALID has a nonzero command and no CMD_ZERO or RECOVERED; RESYNC is FORCED; a FORCED result is
VALID or RESYNC; RECOVERED excludes FORCED; CMD_ZERO goes with an invalid complete packet; OVERFLOW
means SCRATCH filled up; EMPTY recovered nothing, and every other code at least the START. -/
abbrev State.ResultsAgree (s : State) : Prop :=
  (noPacket s.pktStatus = true → s.pktCmd = 0x00 ∧ s.pktLen = 0x00 ∧
    statusForced s.pktStatus = false) ∧
  (statusCode s.pktStatus = PktCode.code .valid → s.pktCmd ≠ 0x00 ∧
    statusCmdZero s.pktStatus = false ∧ statusRecovered s.pktStatus = false) ∧
  (statusCode s.pktStatus = PktCode.code .resync → statusForced s.pktStatus = true ∧
    statusRecovered s.pktStatus = false) ∧
  (statusCmdZero s.pktStatus = true → statusCode s.pktStatus = PktCode.code .heldInvalid ∨
    statusCode s.pktStatus = PktCode.code .resync) ∧
  (statusOverflow s.pktStatus = true → s.pktCount.toNat = s.cfg.maxPacket) ∧
  (statusCode s.pktStatus = PktCode.code .empty ↔ s.pktCount = 0)

/-- A step that goes on: neither a fault nor a refusal. -/
abbrev GoesOn (o : Host.Outcome State Fault Refusal) : Prop := ∃ t, o = .next t

/-! ## Frames -/

/-- Every byte of a space reads as before. -/
abbrev KeepsSpace (sp : Space) (s t : State) : Prop := ∀ i, t.readByte sp i = s.readByte sp i

/-- HEAD and TAIL are as before. -/
abbrev KeepsCursors (s t : State) : Prop := t.head = s.head ∧ t.tail = s.tail

/-- PKT_CMD, PKT_LEN, PKT_COUNT and PKT_STATUS are as before. -/
abbrev KeepsResults (s t : State) : Prop :=
  t.pktCmd = s.pktCmd ∧ t.pktLen = s.pktLen ∧ t.pktCount = s.pktCount ∧ t.pktStatus = s.pktStatus

/-- The build, the waiting inputs, the reset input and the model's counters are as before. -/
abbrev KeepsSurroundings (s t : State) : Prop :=
  t.cfg = s.cfg ∧ t.acceptedFrom = s.acceptedFrom ∧ t.requesterQ = s.requesterQ ∧
    t.producerQ = s.producerQ ∧ t.accepted = s.accepted ∧ t.resetLine = s.resetLine ∧
    t.epoch = s.epoch

/-- Nothing but the response has changed. -/
abbrev OnlyResponds (s t : State) : Prop :=
  KeepsCursors s t ∧ KeepsResults s t ∧ t.txLen = s.txLen ∧ KeepsSurroundings s t ∧
    ∀ sp, KeepsSpace sp s t

/-- The last response is this one (30_encoding.md R83). -/
abbrev Answered (t : State) (e : Status) (r0 r1 r2 : Byte) (r3 : Word9) : Prop :=
  t.response = some { status := e.code, r0 := r0, r1 := r1, r2 := r2, r3 := r3 }

/-- The operation met this error: the status alone is answered and nothing else changes
(60_exceptions.md R230, 30_encoding.md R83). -/
abbrev Raised (e : Status) (s t : State) : Prop := Answered t e 0 0 0 0 ∧ OnlyResponds s t

/-! ## The spec's reading of a window -/

/-- The raw bytes a region gives: START and what UNSTUFF recovers from the bytes after it, cut off at
MAX_PACKET bytes (42_parser.md R166). -/
def spanRaw (maxPacket : Nat) (region : List Byte) : List Byte :=
  (START :: unstuff region).take maxPacket

/-- The span lost raw bytes to the cap (42_parser.md R166). -/
def spanOverflows (maxPacket : Nat) (region : List Byte) : Bool :=
  decide (maxPacket < (unstuff region).length + 1)

/-- Complete: k >= 3 and k >= L + 4 (42_parser.md R167). -/
def rawComplete (raw : List Byte) : Bool :=
  decide (3 ≤ raw.length) && decide ((raw.getD 2 0).toNat + 4 ≤ raw.length)

/-- Complete with a matching checksum (40_codec.md R107). -/
def rawChecks (raw : List Byte) : Bool :=
  rawComplete raw &&
    chk (raw.take (3 + (raw.getD 2 0).toNat)) == raw.getD (3 + (raw.getD 2 0).toNat) 0

/-- A matching checksum with command 0x00 (42_parser.md R168). -/
def rawCmdZero (raw : List Byte) : Bool := rawChecks raw && raw.getD 1 0 == 0x00

/-- Valid: a matching checksum and a command that is not 0x00 (42_parser.md R168). -/
def rawValid (raw : List Byte) : Bool := rawChecks raw && raw.getD 1 0 != 0x00

/-- SCRATCH holds these bytes from index 0 on, and reads as before from there up (42_parser.md
R166). -/
abbrev ScratchHolds (raw : List Byte) (s t : State) : Prop :=
  (∀ i, i < raw.length → t.readByte .scratch i = raw.getD i 0) ∧
    ∀ i, raw.length ≤ i → t.readByte .scratch i = s.readByte .scratch i

/-- The result registers and the response of a DECODE_NEXT (42_parser.md R173). -/
abbrev Reports (t : State) (code : PktCode) (cmd len : Byte) (k : Nat)
    (forced ovf recovered cz : Bool) : Prop :=
  t.pktCmd = cmd ∧ t.pktLen = len ∧ t.pktCount = BitVec.ofNat 9 k ∧
  statusCode t.pktStatus = code.code ∧ statusForced t.pktStatus = forced ∧
  statusOverflow t.pktStatus = ovf ∧ statusRecovered t.pktStatus = recovered ∧
  statusCmdZero t.pktStatus = cz ∧ statusReserved t.pktStatus = false ∧
  Answered t .ok cmd len t.pktStatus (BitVec.ofNat 9 k)

/-- What a DECODE_NEXT never changes (10_state.md R41). -/
abbrev KeepsBesidesParser (s t : State) : Prop :=
  t.head = s.head ∧ t.txLen = s.txLen ∧ KeepsSurroundings s t ∧ KeepsSpace .rxbuf s t ∧
    KeepsSpace .txData s t ∧ KeepsSpace .txWire s t

/-- The effect of an accepted ENCODE (43_encoder.md R201 to R203): TXWIRE holds the frame of the
command, the length and the staged payload with the checksum offset by `delta`, entries above it read
as before, TX_LEN is its length, and the response carries both checksums. Nothing else changes. -/
abbrev Encodes (cmd len delta : Byte) (s t : State) : Prop :=
  let data := s.readSlice .txData 0 len.toNat
  let c0 := chk ([START, cmd, len] ++ data)
  let w := START :: stuffSeq ([cmd, len] ++ data ++ [c0 + delta])
  (∀ j, j < w.length → t.readByte .txWire j = w.getD j 0) ∧
    (∀ j, w.length ≤ j → t.readByte .txWire j = s.readByte .txWire j) ∧
    t.txLen.toNat = w.length ∧ Answered t .ok (c0 + delta) c0 0 (BitVec.ofNat 9 w.length) ∧
    KeepsCursors s t ∧ KeepsResults s t ∧ KeepsSurroundings s t ∧ KeepsSpace .rxbuf s t ∧
    KeepsSpace .scratch s t ∧ KeepsSpace .txData s t

/-- The rows that run the encoder: ENCODE and the command rows (assumption log 8). -/
def runsEncoder : Instr → Bool
  | .encByte _ => false
  | .decByte _ _ => false
  | .rxWrite _ => false
  | .rxPending => false
  | .rxPeek _ => false
  | .rxReadAt _ => false
  | .rxAdvance _ => false
  | .decodeNext => false
  | .scratchRead _ => false
  | .txLoad _ _ => false
  | .encode _ _ _ => true
  | .txRead _ => false
  | .illegal _ => false
  | .start => false
  | .escape => false
  | .literal _ => false
  | .escStart => false
  | .escEscape => false
  | .escPair _ => false
  | .cmdReservedZero _ => true
  | .cmdScanReport _ => true
  | .cmdSetLed _ => true
  | .cmdAutoscanOn _ => true
  | .cmdAutoscanOff _ => true
  | .cmdVendor06 _ => true
  | .cmdVendor07 _ => true
  | .cmdVendor09 _ => true
  | .cmdVendor0A _ => true
  | .cmdVendor0B _ => true
  | .cmdVendor0C _ => true
  | .cmdDetect _ => true
  | .cmdException _ => true
  | .cmdBoardInfo _ => true
  | .cmdOther _ _ => true

/-- The distance TAIL moved, modulo RX_CAP. -/
def tailMoved (s t : State) : Nat := modSub t.tail.toNat s.tail.toNat s.cfg.rxCap

/-- `post` is what may follow a region: nothing, or the next START (42_parser.md R165). -/
def endsRegion (post : List Byte) : Bool := post.isEmpty || post.head? == some START

/-- The operand bits of a request word that its operation uses (30_encoding.md R80, R81), with OP. -/
def usedBits (op : Byte) : RequestWord :=
  match op.toNat with
  | 0x01 => 0x0000FFFF
  | 0x02 => 0x0001FFFF
  | 0x03 => 0x0000FFFF
  | 0x05 => 0x0000FFFF
  | 0x06 => 0x0000FFFF
  | 0x07 => 0x0000FFFF
  | 0x09 => 0x0000FFFF
  | 0x0A => 0x00FFFFFF
  | 0x0B => 0xFFFFFFFF
  | 0x0C => 0x0001FFFF
  | _ => 0x000000FF

end Sys2Proof.Machine
end

