-- ==== Sys2Proof/Certificates/Slice0/Obligations.lean ====
section
/-! DEFINITION. The statements for the provers. Each docstring names the rule of spec/ it formalises,
or the assumption log of the model's choice it is about. -/

open Sys2Proof Sys2Proof.Machine

/-! ## Encodings and requests -/

/-- Decoding the encoding of a well-formed instruction gives it back, with nothing left over: every
operand bit of every row is kept (30_encoding.md R70, R71, R74, R78 to R80). The command rows' LEN
byte and the way wire and command rows are presented are the model's (logs 7 and 8). -/
def Obligations.DecodeOfEncodeIsTheInstruction : Prop :=
  ∀ i : Instr, i.wf = true → decode (encode i) = (i, [])

/-- R81: exactly the operand bits of R80 select; a request word's decoding keeps them all and drops
every other bit. -/
def Obligations.OnlyUsedOperandBitsMatter : Prop :=
  (∀ w : RequestWord, encode (decodeRequest w) = .op (w &&& usedBits (fieldOp w))) ∧
  ∀ w w' : RequestWord, fieldOp w = fieldOp w' →
    w &&& usedBits (fieldOp w) = w' &&& usedBits (fieldOp w) → decodeRequest w = decodeRequest w'

/-- Words written out in the spec decode to the requests they stand for (30_encoding.md R86;
95_test_vectors.md). -/
def Obligations.WrittenOutWordsDecode : Prop :=
  decodeRequest 0x0000FF01 = .encByte 0xFF ∧ decodeRequest 0x0001FE02 = .decByte 0xFE true ∧
  decodeRequest 0x0000FF03 = .rxWrite 0xFF ∧ decodeRequest 0x00000004 = .rxPending ∧
  decodeRequest 0x00000205 = .rxPeek 2 ∧ decodeRequest 0x00001106 = .rxReadAt 17 ∧
  decodeRequest 0x00000107 = .rxAdvance 1 ∧ decodeRequest 0x00000008 = .decodeNext ∧
  decodeRequest 0x00000309 = .scratchRead 3 ∧ decodeRequest 0x0005000A = .txLoad 0 5 ∧
  decodeRequest 0x0301010B = .encode 1 1 3 ∧ decodeRequest 0x00012C0C = .txRead 300 ∧
  decodeRequest 0x0000000D = .illegal 0x0D

/-- R82: a request with OP 0x00 or 0x0D .. 0xFF answers ILLEGAL_OP and changes no state. -/
def Obligations.IllegalOpcodeIsRefusedWithoutEffect : Prop :=
  (∀ op a b c : Byte, op = 0x00 ∨ 0x0D ≤ op.toNat →
    decodeRequest (requestWord op a b c) = .illegal op) ∧
  ∀ (op : Byte) (s : State), ∃ t, exec (.illegal op) s = .next t ∧ Raised .illegalOp s t

/-- When no reset is asserted and the requester port is served, the step is `exec` of the decoded
request on the state with that request taken off its queue; likewise for the producer port. That each
request is decoded, performed whole and accepted at one port is 20_memory.md R59, R60 and
30_encoding.md R78. The waiting lists and their front, the bytes put back after decoding, the noted
port, the count of accepted requests and the arbitration draw are the model's choices (logs 3, 4, 6
and 9). -/
def Obligations.StepRunsTheAcceptedRequest : Prop :=
  (∀ (s : State) (r : Request) (rs : List Request), s.resetLine = false →
    s.requesterQ = r :: rs →
    (s.producerQ = [] ∨ s.cfg.ports ≠ 2 ∨ Config.arbiter s.accepted = .requester) →
    step s = exec (decode r).1 { s with
      requesterQ := (decode r).2 ++ rs, acceptedFrom := .requester, accepted := s.accepted + 1 }) ∧
  (∀ (s : State) (w : RequestWord) (ws : List RequestWord), s.resetLine = false →
    s.producerQ = w :: ws → s.cfg.ports = 2 →
    (s.requesterQ = [] ∨ Config.arbiter s.accepted = .producer) →
    step s = exec (decodeProducer w) { s with
      producerQ := ws, acceptedFrom := .producer, accepted := s.accepted + 1 })

/-- With nothing waiting the block idles; that a step is then a stutter is the model's choice
(log 4). Only operations change state (20_memory.md R58). -/
def Obligations.IdleStepChangesNothing : Prop :=
  ∀ s : State, s.resetLine = false → s.requesterQ = [] →
    (s.producerQ = [] ∨ s.cfg.ports ≠ 2) → step s = .next s

/-- Every step takes at most one waiting request, the oldest of one port, and leaves the other port's
queue alone; the producer port is served only in a two-port build. That requests are accepted one at a
time, from one port, is 20_memory.md R59 and R60. That they wait in lists served oldest first, that an
idle step is a stutter, the bytes put back after decoding, and the noted port and rising count are the
model's choices (logs 3, 4, 6 and 9). -/
def Obligations.PortsAreServedInOrder : Prop :=
  ∀ s t : State, s.resetLine = false → step s = .next t →
    (t = s ∧ s.requesterQ = [] ∧ (s.producerQ = [] ∨ s.cfg.ports ≠ 2)) ∨
    (t.accepted = s.accepted + 1 ∧ t.acceptedFrom = .producer ∧ s.cfg.ports = 2 ∧
      t.requesterQ = s.requesterQ ∧ ∃ w, s.producerQ = w :: t.producerQ) ∨
    (t.accepted = s.accepted + 1 ∧ t.acceptedFrom = .requester ∧ t.producerQ = s.producerQ ∧
      ∃ r rs, s.requesterQ = r :: rs ∧ t.requesterQ = (decode r).2 ++ rs)

/-- A request accepted at the producer port is RX_WRITE or is refused with ILLEGAL_OP, and never
touches TAIL, the parser's or the encoder's state (60_exceptions.md R239, 20_memory.md R61). -/
def Obligations.ProducerPortOnlyWritesHeadAndBuffer : Prop :=
  ∀ (s t : State) (w : RequestWord) (ws : List RequestWord), s.resetLine = false →
    s.producerQ = w :: ws → s.cfg.ports = 2 →
    (s.requesterQ = [] ∨ Config.arbiter s.accepted = .producer) → step s = .next t →
    t.tail = s.tail ∧ KeepsResults s t ∧ t.txLen = s.txLen ∧ KeepsSpace .scratch s t ∧
    KeepsSpace .txData s t ∧ KeepsSpace .txWire s t ∧
    (fieldOp w = 0x03 → decodeProducer w = .rxWrite (fieldA w)) ∧
    (fieldOp w ≠ 0x03 → Answered t .illegalOp 0 0 0 0 ∧ t.head = s.head ∧ KeepsSpace .rxbuf s t)

/-! ## Reset -/

/-- R40: the reset values of all state, for every build. The table leaves the arrays unspecified. -/
def Obligations.ResetTableIsApplied : Prop :=
  ∀ (c : Config) (n : Nat), ∃ s : State, s = State.resetOf c n ∧ s.cfg = c ∧
    s.head = 0 ∧ s.tail = 0 ∧ s.pktCmd = 0x00 ∧ s.pktLen = 0x00 ∧ s.pktCount = 0 ∧
    s.pktStatus = 0x00 ∧ s.txLen = 0

/-- What a byte reads as that nothing has written since reset is the model's free value (log 2),
whatever that is: RX_READ_AT answers it, and every entry keeps it until an operation writes there
(20_memory.md R68; 93 U1 to U4). -/
def Obligations.UnwrittenEntriesReadTheirFreeDraw : Prop :=
  (∀ (c : Config) (n : Nat) (index : Byte), ∃ t,
    exec (.rxReadAt index) (State.resetOf c n) = .next t ∧
    Answered t .ok (Config.freeByte n .rxbuf (index.toNat % c.rxCap)) 0 0 0) ∧
  ∀ (i : Instr) (s t : State) (sp : Space) (k : Nat), exec i s = .next t →
    (t.mem sp).read k = none → t.readByte sp k = s.readByte sp k

/-- R261: while reset is asserted the block performs no request; each step leaves the reset table's
values. That what was presented is gone, and that each such step draws the contents afresh, are the
model's choices (logs 2 and 5). -/
def Obligations.AssertedResetPerformsNoRequest : Prop :=
  ∀ s : State, s.resetLine = true → ∃ t, step s = .next t ∧
    t = { State.resetOf s.cfg (s.epoch + 1) with resetLine := true, accepted := s.accepted } ∧
    t.head = 0 ∧ t.tail = 0 ∧ t.pktCmd = 0x00 ∧ t.pktLen = 0x00 ∧ t.pktCount = 0 ∧
    t.pktStatus = 0x00 ∧ t.txLen = 0 ∧ t.response = none

/-- The reset state of every legal build is a good state whose result registers agree, and
`State.reset` is one of them (log 1). -/
def Obligations.ResetStatesAreGood : Prop :=
  (∀ (c : Config) (n : Nat), c.Legal → (State.resetOf c n).Inv ∧ (State.resetOf c n).ResultsAgree) ∧
  State.reset.Inv ∧ State.reset.ResultsAgree

/-- After reset, DECODE_NEXT answers EMPTY and RX_PEEK answers RANGE as long as no RX_WRITE has run,
and TX_READ answers RANGE as long as no encoder row has run, whatever else has
(70_reset_and_hazards.md R263). -/
def Obligations.ReadsAfterResetUntilTheFirstWrite : Prop :=
  ∀ (c : Config) (n : Nat) (is : List Instr) (s : State), c.Legal →
    execAll is (State.resetOf c n) = .next s →
    ((∀ b, Instr.rxWrite b ∉ is) →
      (∃ t, exec .decodeNext s = .next t ∧ t.tail = s.tail ∧ Answered t .ok 0x00 0x00 0x00 0) ∧
      ∀ o, ∃ t, exec (.rxPeek o) s = .next t ∧ Raised .range s t) ∧
    ((∀ i ∈ is, runsEncoder i = false) →
      ∀ i, ∃ t, exec (.txRead i) s = .next t ∧ Raised .range s t)

/-! ## Whole-machine rules -/

/-- Every step from a good state gives a good state: legal cursors, canonical arrays inside their
sizes, counts in range, reserved codes never produced, START where the spec fixes it. -/
def Obligations.EveryStepKeepsTheInvariant : Prop :=
  ∀ s t : State, s.Inv → step s = .next t → t.Inv

/-- Every step from a good state whose result registers agree keeps them in agreement (10_state.md
R28 to R33, 42_parser.md R173). -/
def Obligations.EveryStepKeepsResultsInAgreement : Prop :=
  ∀ s t : State, s.Inv → s.ResultsAgree → step s = .next t → t.ResultsAgree

/-- No step ever ends the machine: from every state a step goes on (60_exceptions.md R230; 20_memory.md
R65). -/
def Obligations.NoStepStopsTheBlock : Prop := ∀ s : State, GoesOn (step s)

/-- An operation that answers an error has changed nothing but the response, and its result fields
are 0 (60_exceptions.md R230, 30_encoding.md R83). -/
def Obligations.ErrorsLeaveAllStateAsItWas : Prop :=
  ∀ (i : Instr) (s t : State) (r : Response), exec i s = .next t → t.response = some r →
    r.status ≠ 0 →
    OnlyResponds s t ∧ r.r0 = 0 ∧ r.r1 = 0 ∧ r.r2 = 0 ∧ r.r3 = 0

/-- Which status codes each operation answers; codes 6 .. 15 are never produced (60_exceptions.md
R231). -/
def Obligations.StatusCodesPerOperation : Prop :=
  ∀ (i : Instr) (s : State), ∃ (t : State) (r : Response), exec i s = .next t ∧
    t.response = some r ∧ r.status.toNat ≤ 5 ∧
    (r.status = Status.full.code → ∃ b, i = .rxWrite b) ∧
    (r.status = Status.range.code → (∃ o, i = .rxPeek o) ∨ (∃ n, i = .rxAdvance n) ∨
      (∃ j, i = .scratchRead j) ∨ (∃ j b, i = .txLoad j b) ∨ ∃ j, i = .txRead j) ∧
    (r.status = Status.encLen.code ∨ r.status = Status.encCmd.code → runsEncoder i = true) ∧
    (r.status = Status.illegalOp.code ↔ ∃ op, i = .illegal op) ∧
    ((∃ raw, i = .encByte raw) ∨ (∃ w e, i = .decByte w e) ∨ i = .rxPending ∨
      (∃ j, i = .rxReadAt j) ∨ i = .decodeNext → r.status = Status.ok.code)

/-- Which operation writes which state: HEAD and RXBUF only RX_WRITE; TAIL only RX_ADVANCE and
DECODE_NEXT; SCRATCH and the PKT registers only DECODE_NEXT; TXDATA only TX_LOAD; TXWIRE and TX_LEN
only ENCODE and the command rows, which run it (log 8) (10_state.md R41, R24, R28 to R31). -/
def Obligations.OnlyTheNamedOperationsWrite : Prop :=
  ∀ (i : Instr) (s t : State), exec i s = .next t →
    KeepsSurroundings s t ∧
    ((∀ b, i ≠ .rxWrite b) → t.head = s.head ∧ KeepsSpace .rxbuf s t) ∧
    ((∀ n, i ≠ .rxAdvance n) → i ≠ .decodeNext → t.tail = s.tail) ∧
    (i ≠ .decodeNext → KeepsSpace .scratch s t ∧ KeepsResults s t) ∧
    ((∀ j b, i ≠ .txLoad j b) → KeepsSpace .txData s t) ∧
    (runsEncoder i = false → t.txLen = s.txLen ∧ KeepsSpace .txWire s t)

/-- Reads have no side effects and can be repeated with the same result (20_memory.md R58). -/
def Obligations.ReadsAreRepeatable : Prop :=
  ∀ (i : Instr) (s t : State),
    (i = .rxPending ∨ (∃ o, i = .rxPeek o) ∨ (∃ j, i = .rxReadAt j) ∨ (∃ j, i = .scratchRead j) ∨
      (∃ j, i = .txRead j) ∨ (∃ raw, i = .encByte raw) ∨ ∃ w e, i = .decByte w e) →
    exec i s = .next t → OnlyResponds s t ∧ exec i t = .next t

/-- No step changes the build parameters (70_reset_and_hazards.md R262). -/
def Obligations.BuildParametersNeverChange : Prop :=
  ∀ s t : State, step s = .next t → t.cfg = s.cfg

/-! ## Codec -/

/-- R101: ENC_BYTE answers the stuffing of its byte and touches no state. -/
def Obligations.EncByteAnswersTheStuffing : Prop :=
  (∀ a b c : Byte, decodeRequest (requestWord 0x01 a b c) = .encByte a) ∧
  ∀ (raw : Byte) (s : State), ∃ t, exec (.encByte raw) s = .next t ∧ OnlyResponds s t ∧
    (raw = 0xFF → Answered t .ok 0xFD 0xFE 0 2) ∧
    (raw = 0xFD → Answered t .ok 0xFD 0xFC 0 2) ∧
    (raw ≠ 0xFF → raw ≠ 0xFD → Answered t .ok raw 0x00 0 1)

/-- R103: DEC_BYTE answers one step of the stream decoder with its flags and touches no state. -/
def Obligations.DecByteAnswersOneDecoderStep : Prop :=
  (∀ a b c : Byte, decodeRequest (requestWord 0x02 a b c) = .decByte a (b.getLsbD 0)) ∧
  ∀ (wire : Byte) (e : Bool) (s : State), ∃ t, exec (.decByte wire e) s = .next t ∧
    OnlyResponds s t ∧
    (e = true → wire = 0xFF → Answered t .ok 0x00 0x05 0 0) ∧
    (e = true → wire ≠ 0xFF → Answered t .ok (wire + 1) 0x01 0 0) ∧
    (e = false → wire = 0xFD → Answered t .ok 0x00 0x02 0 0) ∧
    (e = false → wire = 0xFF → Answered t .ok 0xFF 0x05 0 0) ∧
    (e = false → wire ≠ 0xFD → wire ≠ 0xFF → Answered t .ok wire 0x01 0 0)

/-- R108: STUFFSEQ concatenates the stuffings, never yields START and has the length given there; and
UNSTUFF undoes it (40_codec.md R109). -/
def Obligations.StuffedSequencesDecodeBack : Prop :=
  ∀ seq : List Byte, stuffSeq seq = (seq.map stuff).flatten ∧ unstuff (stuffSeq seq) = seq ∧
    START ∉ stuffSeq seq ∧
    (stuffSeq seq).length = seq.length + seq.countP (fun b => b == START || b == ESCAPE)

/-- R106: CHK is minus the sum of the bytes modulo 256, a packet with its checksum sums to 0 modulo
256, and CHK does not depend on the order of the bytes. -/
def Obligations.ChecksumHasItsClosedForms : Prop :=
  (∀ seq : List Byte, ((chk seq).toNat : Int) = -((seq.map (fun b => (b.toNat : Int))).sum) % 256) ∧
  (∀ (cmd len : Byte) (data : List Byte),
    ((packetChk cmd len data).toNat : Int) =
      (1 - cmd.toNat - len.toNat - (data.map (fun b => (b.toNat : Int))).sum) % 256) ∧
  (∀ (cmd len : Byte) (data : List Byte),
    (0xFF + cmd.toNat + len.toNat + (data.map (fun b => b.toNat)).sum +
      (packetChk cmd len data).toNat) % 256 = 0) ∧
  ∀ seq seq' : List Byte, seq.Perm seq' → chk seq = chk seq'

/-- The wire rows of the table answer what the stream decoder makes of their bytes, the escape flag
starting at 0, and change no state. That they run so is the model's choice (log 7); the values are
R70's, R71's and R88's (40_codec.md R102, R103). -/
def Obligations.WireRowsAnswerTheirDecoding : Prop :=
  ∀ (s : State),
    (∃ t, exec .start s = .next t ∧ OnlyResponds s t ∧ Answered t .ok 0xFF 0x05 0 0) ∧
    (∃ t, exec .escape s = .next t ∧ OnlyResponds s t ∧ Answered t .ok 0x00 0x02 0 0) ∧
    (∀ v : Byte, v ≠ 0xFF → v ≠ 0xFD → ∃ t, exec (.literal v) s = .next t ∧ OnlyResponds s t ∧
      Answered t .ok v 0x01 0 0) ∧
    (∃ t, exec .escStart s = .next t ∧ OnlyResponds s t ∧ Answered t .ok 0xFF 0x01 0 0) ∧
    (∃ t, exec .escEscape s = .next t ∧ OnlyResponds s t ∧ Answered t .ok 0xFD 0x01 0 0) ∧
    (∀ x : Byte, x ≠ 0xFF → ∃ t, exec (.escPair x) s = .next t ∧ OnlyResponds s t ∧
      Answered t .ok (x + 1) 0x01 0 0)

/-! ## Receive buffer -/

/-- R130: RX_WRITE drops its byte with FULL on a full buffer, and else stores it at HEAD and moves
HEAD on modulo RX_CAP. -/
def Obligations.RxWriteStoresAtHeadOrAnswersFull : Prop :=
  (∀ a b c : Byte, decodeRequest (requestWord 0x03 a b c) = .rxWrite a) ∧
  ∀ (byte : Byte) (s : State), s.CursorsLegal →
    ((s.head.toNat + 1) % s.cfg.rxCap = s.tail.toNat →
      ∃ t, exec (.rxWrite byte) s = .next t ∧ Raised .full s t) ∧
    ((s.head.toNat + 1) % s.cfg.rxCap ≠ s.tail.toNat →
      ∃ (t : State) (n : Nat), exec (.rxWrite byte) s = .next t ∧
        t.head.toNat = (s.head.toNat + 1) % s.cfg.rxCap ∧ t.tail = s.tail ∧
        t.readByte .rxbuf s.head.toNat = byte ∧
        (∀ i, i ≠ s.head.toNat → t.readByte .rxbuf i = s.readByte .rxbuf i) ∧
        t.window = s.window ++ [byte] ∧
        (n : Int) = ((t.head.toNat : Int) - t.tail.toNat) % s.cfg.rxCap ∧
        Answered t .ok 0 0 0 (BitVec.ofNat 9 n) ∧
        KeepsResults s t ∧ t.txLen = s.txLen ∧ KeepsSurroundings s t ∧ KeepsSpace .scratch s t ∧
        KeepsSpace .txData s t ∧ KeepsSpace .txWire s t)

/-- R132: RX_PENDING answers HEAD, TAIL and (HEAD - TAIL) mod RX_CAP and changes nothing. -/
def Obligations.RxPendingAnswersTheCursors : Prop :=
  (∀ a b c : Byte, decodeRequest (requestWord 0x04 a b c) = .rxPending) ∧
  ∀ s : State, s.CursorsLegal → ∃ (t : State) (n : Nat), exec .rxPending s = .next t ∧
    (n : Int) = ((s.head.toNat : Int) - s.tail.toNat) % s.cfg.rxCap ∧ n < s.cfg.rxCap ∧
    Answered t .ok s.head s.tail 0 (BitVec.ofNat 9 n) ∧ OnlyResponds s t

/-- R133: RX_PEEK reads an unread byte by its offset from TAIL, or answers RANGE at and beyond
PENDING. -/
def Obligations.RxPeekReadsAnUnreadByte : Prop :=
  (∀ a b c : Byte, decodeRequest (requestWord 0x05 a b c) = .rxPeek a) ∧
  ∀ (offset : Byte) (s : State), s.CursorsLegal →
    ((offset.toNat : Int) < ((s.head.toNat : Int) - s.tail.toNat) % s.cfg.rxCap →
      ∃ t, exec (.rxPeek offset) s = .next t ∧ OnlyResponds s t ∧
        Answered t .ok (s.readByte .rxbuf ((s.tail.toNat + offset.toNat) % s.cfg.rxCap)) 0 0 0) ∧
    (((s.head.toNat : Int) - s.tail.toNat) % s.cfg.rxCap ≤ (offset.toNat : Int) →
      ∃ t, exec (.rxPeek offset) s = .next t ∧ Raised .range s t)

/-- R134: RX_READ_AT reads the entry of any index reduced modulo RX_CAP. An entry not written since
reset reads as its free draw, whatever that is (log 2). -/
def Obligations.RxReadAtReadsModuloCapacity : Prop :=
  (∀ a b c : Byte, decodeRequest (requestWord 0x06 a b c) = .rxReadAt a) ∧
  ∀ (index : Byte) (s : State), ∃ t, exec (.rxReadAt index) s = .next t ∧ OnlyResponds s t ∧
    Answered t .ok (s.readByte .rxbuf (index.toNat % s.cfg.rxCap)) 0 0 0

/-- R135: RX_ADVANCE moves TAIL to a legal index not past HEAD, and else answers RANGE. -/
def Obligations.RxAdvanceMovesTailForward : Prop :=
  (∀ a b c : Byte, decodeRequest (requestWord 0x07 a b c) = .rxAdvance a) ∧
  ∀ (new : Byte) (s : State), s.CursorsLegal →
    (s.cfg.rxCap ≤ new.toNat → ∃ t, exec (.rxAdvance new) s = .next t ∧ Raised .range s t) ∧
    (new.toNat < s.cfg.rxCap →
      ((s.head.toNat : Int) - s.tail.toNat) % s.cfg.rxCap <
        ((new.toNat : Int) - s.tail.toNat) % s.cfg.rxCap →
      ∃ t, exec (.rxAdvance new) s = .next t ∧ Raised .range s t) ∧
    (new.toNat < s.cfg.rxCap →
      ((new.toNat : Int) - s.tail.toNat) % s.cfg.rxCap ≤
        ((s.head.toNat : Int) - s.tail.toNat) % s.cfg.rxCap →
      ∃ (t : State) (n : Nat), exec (.rxAdvance new) s = .next t ∧
        t.tail = new ∧ t.head = s.head ∧
        (n : Int) = ((s.head.toNat : Int) - new.toNat) % s.cfg.rxCap ∧
        Answered t .ok 0 0 0 (BitVec.ofNat 9 n) ∧
        KeepsResults s t ∧ t.txLen = s.txLen ∧ KeepsSurroundings s t ∧ ∀ sp, KeepsSpace sp s t)

/-- The unread bytes change in only two ways: RX_WRITE appends one byte at the end, and a TAIL move,
by RX_ADVANCE or DECODE_NEXT, removes a prefix (41_rxbuffer.md R137). -/
def Obligations.UnreadBytesOnlyGrowAtTheEndOrLoseAPrefix : Prop :=
  ∀ (i : Instr) (s t : State), s.CursorsLegal → exec i s = .next t →
    t.window = s.window ∨
    (∃ b, i = .rxWrite b ∧ t.window = s.window ++ [b]) ∨
    ((∃ n, i = .rxAdvance n) ∨ i = .decodeNext) ∧ ∃ d, d ≤ s.pending ∧ t.window = s.window.drop d

/-- An accepted RX_ADVANCE removes exactly the bytes between the old and the new TAIL, and one to
HEAD empties the buffer (41_rxbuffer.md R135, 70_reset_and_hazards.md R260). -/
def Obligations.RxAdvanceDropsThePassedBytes : Prop :=
  ∀ (new : Byte) (s t : State), s.CursorsLegal → exec (.rxAdvance new) s = .next t →
    t.answeredOk = true →
    t.window = s.window.drop (modSub new.toNat s.tail.toNat s.cfg.rxCap) ∧
    t.pending = s.pending - modSub new.toNat s.tail.toNat s.cfg.rxCap ∧
    (new = s.head → t.window = [])

/-- R131: RX_WRITE_N writes the first min(len, RX_CAP - 1 - PENDING) bytes, in order. -/
def Obligations.RxWriteNWritesWhatFits : Prop :=
  ∀ (bs : List Byte) (s : State), s.CursorsLegal →
    (rxWriteN bs s).1 = min bs.length (s.cfg.rxCap - 1 - s.pending) ∧
    (rxWriteN bs s).2.window = s.window ++ bs.take (rxWriteN bs s).1 ∧
    (rxWriteN bs s).2.tail = s.tail

/-- An RX_ADVANCE to a HEAD read earlier is legal whatever the producer has written since
(70_reset_and_hazards.md R271). -/
def Obligations.AdvanceToAnEarlierHeadIsLegal : Prop :=
  ∀ (bs : List Byte) (s : State), s.CursorsLegal →
    ∃ t, exec (.rxAdvance s.head) (rxWriteN bs s).2 = .next t ∧ t.answeredOk = true ∧
      t.tail = s.head ∧ t.window = bs.take (rxWriteN bs s).1

/-! ## Parser -/

/-- R163: with no START pending, DECODE_NEXT reports EMPTY, writes no SCRATCH and leaves TAIL, but
on a full buffer discards everything (R172, case 1). -/
def Obligations.ParseWithoutStartIsEmpty : Prop :=
  ∀ s : State, s.CursorsLegal → START ∉ s.window →
    ∃ t, exec .decodeNext s = .next t ∧ KeepsBesidesParser s t ∧ KeepsSpace .scratch s t ∧
      Reports t .empty 0x00 0x00 0 false false (decide (s.pending = s.cfg.rxCap - 1)) false ∧
      t.tail = if s.pending = s.cfg.rxCap - 1 then s.head else s.tail

/-- R169: with a second START pending, TAIL goes to it whatever the span's validity, and the span is
reported VALID or RESYNC with the command and length it has. -/
def Obligations.SecondStartForcesTheAdvance : Prop :=
  ∀ (s : State) (pre mid post : List Byte), s.CursorsLegal →
    s.window = pre ++ START :: mid ++ START :: post → START ∉ pre → START ∉ mid →
    ∃ (t : State) (raw : List Byte), raw = spanRaw s.cfg.maxPacket mid ∧
      exec .decodeNext s = .next t ∧ KeepsBesidesParser s t ∧ ScratchHolds raw s t ∧
      Reports t (if rawValid raw then .valid else .resync) (raw.getD 1 0) (raw.getD 2 0) raw.length
        true (spanOverflows s.cfg.maxPacket mid) false (rawCmdZero raw) ∧
      t.tail.toNat = (s.tail.toNat + (pre.length + 1 + mid.length)) % s.cfg.rxCap ∧
      t.window = START :: post

/-- R170: a tentative valid packet is reported VALID and TAIL goes to HEAD. -/
def Obligations.TentativeValidPacketIsConsumed : Prop :=
  ∀ (s : State) (pre mid : List Byte), s.CursorsLegal →
    s.window = pre ++ START :: mid → START ∉ pre → START ∉ mid →
    rawValid (spanRaw s.cfg.maxPacket mid) = true →
    ∃ (t : State) (raw : List Byte), raw = spanRaw s.cfg.maxPacket mid ∧
      exec .decodeNext s = .next t ∧ KeepsBesidesParser s t ∧ ScratchHolds raw s t ∧
      Reports t .valid (raw.getD 1 0) (raw.getD 2 0) raw.length
        false (spanOverflows s.cfg.maxPacket mid) false false ∧
      t.tail = s.head ∧ t.window = []

/-- R171: a tentative packet that is not valid is reported as 'no packet', INCOMPLETE or
HELD_INVALID, and on a buffer that is not full TAIL stays. Once the next START has arrived, the next
parse reports the span as RESYNC with its command and length. -/
def Obligations.TentativeInvalidPacketIsHeld : Prop :=
  ∀ (s : State) (pre mid : List Byte), s.CursorsLegal →
    s.window = pre ++ START :: mid → START ∉ pre → START ∉ mid →
    rawValid (spanRaw s.cfg.maxPacket mid) = false → s.pending ≠ s.cfg.rxCap - 1 →
    ∃ (t : State) (raw : List Byte), raw = spanRaw s.cfg.maxPacket mid ∧
      exec .decodeNext s = .next t ∧ KeepsBesidesParser s t ∧ ScratchHolds raw s t ∧
      Reports t (if rawComplete raw then .heldInvalid else .incomplete) 0x00 0x00 raw.length
        false (spanOverflows s.cfg.maxPacket mid) false (rawCmdZero raw) ∧
      t.tail = s.tail ∧ t.window = s.window ∧
      ∃ u v : State, exec (.rxWrite START) t = .next u ∧ exec .decodeNext u = .next v ∧
        Reports v .resync (raw.getD 1 0) (raw.getD 2 0) raw.length
          true (spanOverflows s.cfg.maxPacket mid) false (rawCmdZero raw) ∧
        v.window = [START]

/-- R172: on a full buffer, a parse that is neither forced nor valid recovers: without START TAIL goes
to HEAD, with a START after junk to that START, with a START at TAIL one byte on. -/
def Obligations.FullBufferIsRecovered : Prop :=
  ∀ s : State, s.CursorsLegal → s.pending = s.cfg.rxCap - 1 →
    (START ∉ s.window → ∃ t, exec .decodeNext s = .next t ∧ t.tail = s.head ∧
      Reports t .empty 0x00 0x00 0 false false true false) ∧
    (∀ pre mid : List Byte, s.window = pre ++ START :: mid → START ∉ pre → START ∉ mid →
      rawValid (spanRaw s.cfg.maxPacket mid) = false →
      ∃ (t : State) (raw : List Byte), raw = spanRaw s.cfg.maxPacket mid ∧
        exec .decodeNext s = .next t ∧ KeepsBesidesParser s t ∧ ScratchHolds raw s t ∧
        Reports t (if rawComplete raw then .heldInvalid else .incomplete) 0x00 0x00 raw.length
          false (spanOverflows s.cfg.maxPacket mid) true (rawCmdZero raw) ∧
        (pre ≠ [] → t.tail.toNat = (s.tail.toNat + pre.length) % s.cfg.rxCap ∧
          t.window = START :: mid) ∧
        (pre = [] → t.tail.toNat = (s.tail.toNat + 1) % s.cfg.rxCap ∧ t.window = mid))

/-- R174: the parse depends only on the window: two states of one build with the same window, at any
TAIL position, get the same results, the same recovered bytes and the same TAIL movement. -/
def Obligations.ParseDependsOnlyOnTheWindow : Prop :=
  ∀ s s' t t' : State, s.CursorsLegal → s'.CursorsLegal → s.cfg = s'.cfg → s.window = s'.window →
    exec .decodeNext s = .next t → exec .decodeNext s' = .next t' →
    t.pktCmd = t'.pktCmd ∧ t.pktLen = t'.pktLen ∧ t.pktCount = t'.pktCount ∧
    t.pktStatus = t'.pktStatus ∧ t.response = t'.response ∧
    (∀ i, i < t.pktCount.toNat → t.readByte .scratch i = t'.readByte .scratch i) ∧
    tailMoved s t = tailMoved s' t' ∧ t.window = t'.window

/-- R175: a VALID or RESYNC result moves TAIL forward by 1 to n offsets, a forced one by the second
START's offset, a tentative VALID by n; a RECOVERED result moves it by at least 1; and every other
result leaves TAIL and is 'no packet'. -/
def Obligations.ParseMakesProgress : Prop :=
  ∀ s t : State, s.CursorsLegal → exec .decodeNext s = .next t →
    (statusCode t.pktStatus = PktCode.code .valid ∨ statusCode t.pktStatus = PktCode.code .resync →
      1 ≤ tailMoved s t ∧ tailMoved s t ≤ s.pending) ∧
    (statusForced t.pktStatus = true → ∃ pre mid post : List Byte,
      s.window = pre ++ START :: mid ++ START :: post ∧ START ∉ pre ∧ START ∉ mid ∧
      tailMoved s t = pre.length + 1 + mid.length) ∧
    (statusCode t.pktStatus = PktCode.code .valid → statusForced t.pktStatus = false →
      tailMoved s t = s.pending) ∧
    (statusRecovered t.pktStatus = true → 1 ≤ tailMoved s t) ∧
    (statusCode t.pktStatus ≠ PktCode.code .valid → statusCode t.pktStatus ≠ PktCode.code .resync →
      statusRecovered t.pktStatus = false → t.tail = s.tail ∧ noPacket t.pktStatus = true)

/-- R176: DRAIN receives a 'no packet' code after at most PENDING + 1 calls, since each other call
removes a pending byte. -/
def Obligations.DrainEndsWithinPendingPlusOneCalls : Prop :=
  ∀ s : State, s.CursorsLegal →
    (∃ (calls : Nat) (t : State), drain (s.pending + 1) s = some (calls, t) ∧
      calls ≤ s.pending + 1 ∧ noPacket t.pktStatus = true) ∧
    ∀ t, exec .decodeNext s = .next t → noPacket t.pktStatus = false → t.pending < s.pending

/-- No fabrication: a VALID result's command, length and payload are the first raw bytes that UNSTUFF
recovers after one wire START, its checksum byte is their CHK, its command is not 0x00, and TAIL
moves past that START (42_parser.md R177). -/
def Obligations.ValidPacketsWereReceived : Prop :=
  ∀ s t : State, s.CursorsLegal → exec .decodeNext s = .next t →
    statusCode t.pktStatus = PktCode.code .valid →
    ∃ pre mid post : List Byte, s.window = pre ++ START :: mid ++ post ∧ START ∉ mid ∧
      endsRegion post = true ∧ pre.length + 1 ≤ tailMoved s t ∧
      t.packet.isValid = true ∧ t.pktCmd ≠ 0x00 ∧
      [t.pktCmd, t.pktLen] ++ t.packet.data ++ [chk ([START, t.pktCmd, t.pktLen] ++ t.packet.data)] =
        (unstuff mid).take (t.pktLen.toNat + 3)

/-- R178: a frame that fits, written byte by byte into an empty buffer with DECODE_NEXT after each
byte, gives INCOMPLETE with no flag and TAIL unchanged until the last byte, and then VALID. -/
def Obligations.PartialFramesReportNoPacket : Prop :=
  ∀ (s : State) (cmd len : Byte) (data : List Byte), s.CursorsLegal → s.head = s.tail →
    cmd ≠ 0x00 → data.length = len.toNat → len.toNat ≤ s.cfg.maxPacket - 4 →
    (frame cmd len data (packetChk cmd len data)).length ≤ s.cfg.rxCap - 1 →
    ∃ (ts : List State) (t : State),
      feedAndParse (frame cmd len data (packetChk cmd len data)) s = some (ts ++ [t]) ∧
      ts.length + 1 = (frame cmd len data (packetChk cmd len data)).length ∧
      (∀ u ∈ ts, u.pktCmd = 0x00 ∧ u.pktLen = 0x00 ∧ u.pktStatus = 0x01 ∧ u.tail = s.tail) ∧
      t.pktStatus = 0x03 ∧ t.tail = t.head ∧ t.packet = Packet.mk cmd len true data

/-- R180: SCRATCH_READ reads one byte of SCRATCH, or answers RANGE at MAX_PACKET and above; payload byte
k is answered by SCRATCH_READ 3 + k, for every k whose entry SCRATCH has; entry 0 holds START after any
parse that found one. -/
def Obligations.ScratchReadReadsScratch : Prop :=
  (∀ a b c : Byte, decodeRequest (requestWord 0x09 a b c) = .scratchRead a) ∧
  ∀ (j : Byte) (s : State),
    (j.toNat < s.cfg.maxPacket → ∃ t, exec (.scratchRead j) s = .next t ∧ OnlyResponds s t ∧
      Answered t .ok (s.readByte .scratch j.toNat) 0 0 0) ∧
    (s.cfg.maxPacket ≤ j.toNat → ∃ t, exec (.scratchRead j) s = .next t ∧ Raised .range s t) ∧
    (∀ k : Nat, s.cfg.Legal → k < s.pktLen.toNat → 3 + k < s.cfg.maxPacket →
      ∃ t, exec (.scratchRead (BitVec.ofNat 8 (3 + k))) s = .next t ∧
        Answered t .ok (s.packet.data.getD k 0) 0 0 0) ∧
    ∀ t, s.CursorsLegal → exec .decodeNext s = .next t → START ∈ s.window →
      t.readByte .scratch 0 = START

/-! ## Encoder -/

/-- R200: TX_LOAD stores one payload byte, or answers RANGE at MAX_DATA and above; nothing else
writes TXDATA. -/
def Obligations.TxLoadStagesAPayloadByte : Prop :=
  (∀ a b c : Byte, decodeRequest (requestWord 0x0A a b c) = .txLoad a b) ∧
  ∀ (j byte : Byte) (s : State),
    (j.toNat < s.cfg.maxPacket - 4 → ∃ t, exec (.txLoad j byte) s = .next t ∧
      Answered t .ok 0 0 0 0 ∧ t.readByte .txData j.toNat = byte ∧
      (∀ i, i ≠ j.toNat → t.readByte .txData i = s.readByte .txData i) ∧
      KeepsCursors s t ∧ KeepsResults s t ∧ t.txLen = s.txLen ∧ KeepsSurroundings s t ∧
      KeepsSpace .rxbuf s t ∧ KeepsSpace .scratch s t ∧ KeepsSpace .txWire s t) ∧
    (s.cfg.maxPacket - 4 ≤ j.toNat → ∃ t, exec (.txLoad j byte) s = .next t ∧ Raised .range s t) ∧
    ∀ (i : Instr) (t : State), exec i s = .next t → (∀ k b, i ≠ .txLoad k b) →
      KeepsSpace .txData s t

/-- R201: ENCODE refuses command 0x00 first, then a length above MAX_DATA, and else builds the frame
in TXWIRE (R202) with the checksum offset by delta. -/
def Obligations.EncodeBuildsTheFrame : Prop :=
  (∀ a b c : Byte, decodeRequest (requestWord 0x0B a b c) = .encode a b c) ∧
  ∀ (cmd len delta : Byte) (s : State), s.cfg.Legal →
    (cmd = 0x00 → ∃ t, exec (.encode cmd len delta) s = .next t ∧ Raised .encCmd s t) ∧
    (cmd ≠ 0x00 → s.cfg.maxPacket - 4 < len.toNat →
      ∃ t, exec (.encode cmd len delta) s = .next t ∧ Raised .encLen s t) ∧
    (cmd ≠ 0x00 → len.toNat ≤ s.cfg.maxPacket - 4 →
      ∃ t, exec (.encode cmd len delta) s = .next t ∧ Encodes cmd len delta s t ∧
        len.toNat + 4 ≤ t.txLen.toNat ∧ t.txLen.toNat ≤ 2 * len.toNat + 7 ∧
        t.txLen.toNat ≤ s.cfg.maxWire ∧ t.readByte .txWire 0 = START)

/-- R204: TX_READ reads one byte of the last frame, or answers RANGE at TX_LEN and above; its index
is B[0]:A. After a successful ENCODE, entry 0 is START, and the frame stays until an encoder row
answers OK and so replaces it. -/
def Obligations.TxReadReadsTheFrame : Prop :=
  (∀ a b c : Byte, decodeRequest (requestWord 0x0C a b c) =
    .txRead (BitVec.ofNat 9 ((b.toNat % 2) * 256 + a.toNat))) ∧
  ∀ (j : Word9) (s : State),
    (j.toNat < s.txLen.toNat → ∃ t, exec (.txRead j) s = .next t ∧ OnlyResponds s t ∧
      Answered t .ok (s.readByte .txWire j.toNat) 0 0 0) ∧
    (s.txLen.toNat ≤ j.toNat → ∃ t, exec (.txRead j) s = .next t ∧ Raised .range s t) ∧
    (∀ (cmd len delta : Byte) (t : State), s.cfg.Legal → exec (.encode cmd len delta) s = .next t →
      t.answeredOk = true → ∃ u, exec (.txRead 0) t = .next u ∧ Answered u .ok 0xFF 0 0 0) ∧
    ∀ (i : Instr) (t : State), exec i s = .next t → (runsEncoder i = false ∨ t.answeredOk = false) →
      t.wireBytes = s.wireBytes

/-- R202: a frame is START and the stuffing of command, length, payload and checksum; it holds exactly
one START, at its first byte. It is len + 4 to 2 len + 7 bytes long, never more than MAX_WIRE
(43_encoder.md R201). -/
def Obligations.FramesHoldOneStartAndFit : Prop :=
  ∀ (cmd len c : Byte) (data : List Byte), data.length = len.toNat →
    frame cmd len data c = 0xFF :: stuffSeq ([cmd, len] ++ data ++ [c]) ∧
    START ∉ (frame cmd len data c).tail ∧
    len.toNat + 4 ≤ (frame cmd len data c).length ∧
    (frame cmd len data c).length ≤ 2 * len.toNat + 7 ∧
    ∀ k : Config, k.Legal → len.toNat ≤ k.maxData → (frame cmd len data c).length ≤ k.maxWire

/-- After an accepted ENCODE, TX_READ 0 .. TX_LEN - 1 read out the frame in order, and the frame of a
later TX_LOAD's state is still the same (43_encoder.md R201, R204; 70_reset_and_hazards.md R266). -/
def Obligations.EncodedFrameReadsOut : Prop :=
  ∀ (cmd len delta : Byte) (s : State), s.cfg.Legal → cmd ≠ 0x00 →
    len.toNat ≤ s.cfg.maxPacket - 4 →
    ∃ (t : State) (w : List Byte), exec (.encode cmd len delta) s = .next t ∧
      w = frame cmd len (s.readSlice .txData 0 len.toNat)
        (packetChk cmd len (s.readSlice .txData 0 len.toNat) + delta) ∧
      t.wireBytes = w ∧
      (∀ j : Word9, j.toNat < w.length → ∃ u, exec (.txRead j) t = .next u ∧
        Answered u .ok (w.getD j.toNat 0) 0 0 0) ∧
      ∀ (j b : Byte) (v : State), exec (.txLoad j b) t = .next v → v.wireBytes = w

/-- The command rows of the table run the encoder on their command with no checksum offset. That they
run so, with LEN as their operand, is the model's choice (log 8); each command passes through as
given (30_encoding.md R74). -/
def Obligations.CommandRowsEncodeTheirCommand : Prop :=
  ∀ (len : Byte) (s : State), s.cfg.Legal → len.toNat ≤ s.cfg.maxPacket - 4 →
    (∃ t, exec (.cmdScanReport len) s = .next t ∧ Encodes 0x01 len 0 s t) ∧
    (∃ t, exec (.cmdSetLed len) s = .next t ∧ Encodes 0x02 len 0 s t) ∧
    (∃ t, exec (.cmdAutoscanOn len) s = .next t ∧ Encodes 0x03 len 0 s t) ∧
    (∃ t, exec (.cmdAutoscanOff len) s = .next t ∧ Encodes 0x04 len 0 s t) ∧
    (∃ t, exec (.cmdVendor06 len) s = .next t ∧ Encodes 0x06 len 0 s t) ∧
    (∃ t, exec (.cmdVendor07 len) s = .next t ∧ Encodes 0x07 len 0 s t) ∧
    (∃ t, exec (.cmdVendor09 len) s = .next t ∧ Encodes 0x09 len 0 s t) ∧
    (∃ t, exec (.cmdVendor0A len) s = .next t ∧ Encodes 0x0A len 0 s t) ∧
    (∃ t, exec (.cmdVendor0B len) s = .next t ∧ Encodes 0x0B len 0 s t) ∧
    (∃ t, exec (.cmdVendor0C len) s = .next t ∧ Encodes 0x0C len 0 s t) ∧
    (∃ t, exec (.cmdDetect len) s = .next t ∧ Encodes 0x10 len 0 s t) ∧
    (∃ t, exec (.cmdException len) s = .next t ∧ Encodes 0xEE len 0 s t) ∧
    (∃ t, exec (.cmdBoardInfo len) s = .next t ∧ Encodes 0xF0 len 0 s t) ∧
    (∀ cmd : Byte, cmd ≠ 0x00 → ∃ t, exec (.cmdOther cmd len) s = .next t ∧ Encodes cmd len 0 s t)

/-- Command 0x00 is reserved: its row is refused with ENC_CMD whatever the length, and leaves all
state as it was (30_encoding.md R75, 43_encoder.md R201; log 8). -/
def Obligations.ReservedCommandIsRefused : Prop :=
  ∀ (len : Byte) (s : State), ∃ t, exec (.cmdReservedZero len) s = .next t ∧ Raised .encCmd s t

/-- A command row whose length is above MAX_DATA is refused with ENC_LEN (43_encoder.md R201;
log 8). -/
def Obligations.OverlongCommandRowsAreRefused : Prop :=
  ∀ (i : Instr) (len : Byte) (s : State), s.cfg.maxPacket - 4 < len.toNat →
    (i = .cmdScanReport len ∨ i = .cmdSetLed len ∨ i = .cmdAutoscanOn len ∨
      i = .cmdAutoscanOff len ∨ i = .cmdVendor06 len ∨ i = .cmdVendor07 len ∨
      i = .cmdVendor09 len ∨ i = .cmdVendor0A len ∨ i = .cmdVendor0B len ∨ i = .cmdVendor0C len ∨
      i = .cmdDetect len ∨ i = .cmdException len ∨ i = .cmdBoardInfo len ∨
      ∃ cmd : Byte, cmd ≠ 0x00 ∧ i = .cmdOther cmd len) →
    ∃ t, exec i s = .next t ∧ Raised .encLen s t

/-! ## Encoder and parser together -/

/-- R206: encode, write the frame into an empty buffer at any TAIL, and decode: the packet comes back
VALID, not forced, and the buffer is empty. -/
def Obligations.EncodeThenDecodeGivesThePacketBack : Prop :=
  ∀ (s : State) (cmd len : Byte), s.CursorsLegal → s.head = s.tail → cmd ≠ 0x00 →
    len.toNat ≤ s.cfg.maxPacket - 4 →
    (frame cmd len (s.readSlice .txData 0 len.toNat)
      (packetChk cmd len (s.readSlice .txData 0 len.toNat))).length ≤ s.cfg.rxCap - 1 →
    ∃ t u v : State, exec (.encode cmd len 0) s = .next t ∧
      rxWriteN t.wireBytes t = (t.txLen.toNat, u) ∧ exec .decodeNext u = .next v ∧
      Reports v .valid cmd len (len.toNat + 4) false false false false ∧
      v.readSlice .scratch 3 len.toNat = s.readSlice .txData 0 len.toNat ∧
      v.packet = Packet.mk cmd len true (s.readSlice .txData 0 len.toNat) ∧ v.tail = v.head

/-- R203: a frame whose checksum is off by a nonzero delta is found complete but not valid:
HELD_INVALID when tentative, RESYNC when forced. -/
def Obligations.CorruptChecksumIsNeverValid : Prop :=
  ∀ (s t : State) (cmd len delta : Byte) (data pre post : List Byte), s.CursorsLegal →
    delta ≠ 0 → data.length = len.toNat → len.toNat ≤ s.cfg.maxPacket - 4 → START ∉ pre →
    endsRegion post = true →
    s.window = pre ++ frame cmd len data (packetChk cmd len data + delta) ++ post →
    exec .decodeNext s = .next t →
    statusCode t.pktStatus =
      (if post = [] then PktCode.code .heldInvalid else PktCode.code .resync)

/-- Changing one payload byte of a packet and keeping its checksum gives a frame that is never VALID
(43_encoder.md R207). -/
def Obligations.OneChangedPayloadByteIsNeverValid : Prop :=
  ∀ (s t : State) (cmd len v : Byte) (data pre post : List Byte) (j : Nat), s.CursorsLegal →
    j < data.length → v ≠ data.getD j 0 → data.length = len.toNat →
    len.toNat ≤ s.cfg.maxPacket - 4 → START ∉ pre → endsRegion post = true →
    s.window = pre ++ frame cmd len (data.set j v) (packetChk cmd len data) ++ post →
    exec .decodeNext s = .next t →
    statusCode t.pktStatus =
      (if post = [] then PktCode.code .heldInvalid else PktCode.code .resync)

/-! ## The reset input and SEND -/

/-- Driving the reset input to asserted and back leaves the reset table's values with nothing waiting,
whether or not anything was presented under reset, and the next step then performs nothing
(70_reset_and_hazards.md R260, R261). That what was presented is lost, the two draws of unspecified
contents, the kept count of accepted requests and the idle stutter are the model's choices (logs 2, 4,
5 and 6). -/
def Obligations.ReleasedResetLeavesTheResetTable : Prop :=
  ∀ (s : State) (r : Request) (w : RequestWord), ∃ t : State,
    t = (((s.driveReset true).present r).presentProducer w).driveReset false ∧
    t = { State.resetOf s.cfg (s.epoch + 2) with accepted := s.accepted } ∧
    t.head = 0 ∧ t.tail = 0 ∧ t.pktCmd = 0x00 ∧ t.pktLen = 0x00 ∧ t.pktCount = 0 ∧
    t.pktStatus = 0x00 ∧ t.txLen = 0 ∧ t.response = none ∧ t.requesterQ = [] ∧ t.producerQ = [] ∧
    step t = .next t

/-- Every release of an asserted reset, however long it was held and from whatever state, leaves the
reset table's values (70_reset_and_hazards.md R260). -/
def Obligations.EveryReleaseOfResetAppliesTheTable : Prop :=
  ∀ s : State, s.resetLine = true → ∃ t : State, s.driveReset false = t ∧ t.resetLine = false ∧
    t.cfg = s.cfg ∧ t.head = 0 ∧ t.tail = 0 ∧ t.pktCmd = 0x00 ∧ t.pktLen = 0x00 ∧ t.pktCount = 0 ∧
    t.pktStatus = 0x00 ∧ t.txLen = 0 ∧ (t.cfg.Legal → t.Inv ∧ t.ResultsAgree)

/-- SEND_CORRUPT of an accepted command and payload answers, through its TX_READs, exactly the frame
with the checksum offset by `delta`, and leaves it readable; SEND is the case of no offset
(30_encoding.md R87, 43_encoder.md R202, R203). The form as one function on one port is the model's
(log 11). -/
def Obligations.SendAnswersTheFrame : Prop :=
  (∀ (cmd delta : Byte) (data : List Byte) (s : State), s.cfg.Legal → cmd ≠ 0x00 →
    data.length ≤ s.cfg.maxPacket - 4 →
    ∃ (t : State) (w : List Byte),
      w = frame cmd (BitVec.ofNat 8 data.length) data
        (packetChk cmd (BitVec.ofNat 8 data.length) data + delta) ∧
      sendCorrupt cmd data delta s = some (w, t) ∧ t.wireBytes = w ∧
      t.readSlice .txData 0 data.length = data ∧
      (∀ j, data.length ≤ j → t.readByte .txData j = s.readByte .txData j) ∧
      KeepsCursors s t ∧ KeepsResults s t ∧ KeepsSurroundings s t ∧ KeepsSpace .rxbuf s t ∧
      KeepsSpace .scratch s t) ∧
  ∀ (cmd : Byte) (data : List Byte) (s : State), send cmd data s = sendCorrupt cmd data 0 s
end

