-- ==== Sys2Proof/Laws/State.lean ====
section
/-! SUPPORT. One lemma per field per update of the state, so that no later proof unfolds an update. -/

namespace Sys2Proof.Machine

/-! ## writeRx -/

section
variable (s : State) (i : Nat) (v : Byte)

@[simp] theorem State.writeRx_cfg : (s.writeRx i v).cfg = s.cfg := rfl
@[simp] theorem State.writeRx_rxbuf : (s.writeRx i v).rxbuf = s.rxbuf.write i v := rfl
@[simp] theorem State.writeRx_head : (s.writeRx i v).head = s.head := rfl
@[simp] theorem State.writeRx_tail : (s.writeRx i v).tail = s.tail := rfl
@[simp] theorem State.writeRx_scratch : (s.writeRx i v).scratch = s.scratch := rfl
@[simp] theorem State.writeRx_pktCmd : (s.writeRx i v).pktCmd = s.pktCmd := rfl
@[simp] theorem State.writeRx_pktLen : (s.writeRx i v).pktLen = s.pktLen := rfl
@[simp] theorem State.writeRx_pktCount : (s.writeRx i v).pktCount = s.pktCount := rfl
@[simp] theorem State.writeRx_pktStatus : (s.writeRx i v).pktStatus = s.pktStatus := rfl
@[simp] theorem State.writeRx_txData : (s.writeRx i v).txData = s.txData := rfl
@[simp] theorem State.writeRx_txWire : (s.writeRx i v).txWire = s.txWire := rfl
@[simp] theorem State.writeRx_txLen : (s.writeRx i v).txLen = s.txLen := rfl
@[simp] theorem State.writeRx_response : (s.writeRx i v).response = s.response := rfl
@[simp] theorem State.writeRx_acceptedFrom : (s.writeRx i v).acceptedFrom = s.acceptedFrom := rfl
@[simp] theorem State.writeRx_requesterQ : (s.writeRx i v).requesterQ = s.requesterQ := rfl
@[simp] theorem State.writeRx_producerQ : (s.writeRx i v).producerQ = s.producerQ := rfl
@[simp] theorem State.writeRx_accepted : (s.writeRx i v).accepted = s.accepted := rfl
@[simp] theorem State.writeRx_resetLine : (s.writeRx i v).resetLine = s.resetLine := rfl
@[simp] theorem State.writeRx_epoch : (s.writeRx i v).epoch = s.epoch := rfl

end

/-! ## writeTxData -/

section
variable (s : State) (i : Nat) (v : Byte)

@[simp] theorem State.writeTxData_cfg : (s.writeTxData i v).cfg = s.cfg := rfl
@[simp] theorem State.writeTxData_rxbuf : (s.writeTxData i v).rxbuf = s.rxbuf := rfl
@[simp] theorem State.writeTxData_head : (s.writeTxData i v).head = s.head := rfl
@[simp] theorem State.writeTxData_tail : (s.writeTxData i v).tail = s.tail := rfl
@[simp] theorem State.writeTxData_scratch : (s.writeTxData i v).scratch = s.scratch := rfl
@[simp] theorem State.writeTxData_pktCmd : (s.writeTxData i v).pktCmd = s.pktCmd := rfl
@[simp] theorem State.writeTxData_pktLen : (s.writeTxData i v).pktLen = s.pktLen := rfl
@[simp] theorem State.writeTxData_pktCount : (s.writeTxData i v).pktCount = s.pktCount := rfl
@[simp] theorem State.writeTxData_pktStatus : (s.writeTxData i v).pktStatus = s.pktStatus := rfl
@[simp] theorem State.writeTxData_txData : (s.writeTxData i v).txData = s.txData.write i v := rfl
@[simp] theorem State.writeTxData_txWire : (s.writeTxData i v).txWire = s.txWire := rfl
@[simp] theorem State.writeTxData_txLen : (s.writeTxData i v).txLen = s.txLen := rfl
@[simp] theorem State.writeTxData_response : (s.writeTxData i v).response = s.response := rfl
@[simp] theorem State.writeTxData_acceptedFrom :
    (s.writeTxData i v).acceptedFrom = s.acceptedFrom := rfl
@[simp] theorem State.writeTxData_requesterQ : (s.writeTxData i v).requesterQ = s.requesterQ := rfl
@[simp] theorem State.writeTxData_producerQ : (s.writeTxData i v).producerQ = s.producerQ := rfl
@[simp] theorem State.writeTxData_accepted : (s.writeTxData i v).accepted = s.accepted := rfl
@[simp] theorem State.writeTxData_resetLine : (s.writeTxData i v).resetLine = s.resetLine := rfl
@[simp] theorem State.writeTxData_epoch : (s.writeTxData i v).epoch = s.epoch := rfl

end

/-! ## writeFrame -/

section
variable (s : State) (w : List Byte)

@[simp] theorem State.writeFrame_cfg : (s.writeFrame w).cfg = s.cfg := rfl
@[simp] theorem State.writeFrame_rxbuf : (s.writeFrame w).rxbuf = s.rxbuf := rfl
@[simp] theorem State.writeFrame_head : (s.writeFrame w).head = s.head := rfl
@[simp] theorem State.writeFrame_tail : (s.writeFrame w).tail = s.tail := rfl
@[simp] theorem State.writeFrame_scratch : (s.writeFrame w).scratch = s.scratch := rfl
@[simp] theorem State.writeFrame_pktCmd : (s.writeFrame w).pktCmd = s.pktCmd := rfl
@[simp] theorem State.writeFrame_pktLen : (s.writeFrame w).pktLen = s.pktLen := rfl
@[simp] theorem State.writeFrame_pktCount : (s.writeFrame w).pktCount = s.pktCount := rfl
@[simp] theorem State.writeFrame_pktStatus : (s.writeFrame w).pktStatus = s.pktStatus := rfl
@[simp] theorem State.writeFrame_txData : (s.writeFrame w).txData = s.txData := rfl
@[simp] theorem State.writeFrame_txWire : (s.writeFrame w).txWire = s.txWire.writeList 0 w := rfl
@[simp] theorem State.writeFrame_txLen : (s.writeFrame w).txLen = BitVec.ofNat 9 w.length := rfl
@[simp] theorem State.writeFrame_response : (s.writeFrame w).response = s.response := rfl
@[simp] theorem State.writeFrame_acceptedFrom :
    (s.writeFrame w).acceptedFrom = s.acceptedFrom := rfl
@[simp] theorem State.writeFrame_requesterQ : (s.writeFrame w).requesterQ = s.requesterQ := rfl
@[simp] theorem State.writeFrame_producerQ : (s.writeFrame w).producerQ = s.producerQ := rfl
@[simp] theorem State.writeFrame_accepted : (s.writeFrame w).accepted = s.accepted := rfl
@[simp] theorem State.writeFrame_resetLine : (s.writeFrame w).resetLine = s.resetLine := rfl
@[simp] theorem State.writeFrame_epoch : (s.writeFrame w).epoch = s.epoch := rfl

end

/-! ## setHead -/

section
variable (s : State) (i : Nat)

@[simp] theorem State.setHead_cfg : (s.setHead i).cfg = s.cfg := rfl
@[simp] theorem State.setHead_rxbuf : (s.setHead i).rxbuf = s.rxbuf := rfl
@[simp] theorem State.setHead_head : (s.setHead i).head = BitVec.ofNat 8 i := rfl
@[simp] theorem State.setHead_tail : (s.setHead i).tail = s.tail := rfl
@[simp] theorem State.setHead_scratch : (s.setHead i).scratch = s.scratch := rfl
@[simp] theorem State.setHead_pktCmd : (s.setHead i).pktCmd = s.pktCmd := rfl
@[simp] theorem State.setHead_pktLen : (s.setHead i).pktLen = s.pktLen := rfl
@[simp] theorem State.setHead_pktCount : (s.setHead i).pktCount = s.pktCount := rfl
@[simp] theorem State.setHead_pktStatus : (s.setHead i).pktStatus = s.pktStatus := rfl
@[simp] theorem State.setHead_txData : (s.setHead i).txData = s.txData := rfl
@[simp] theorem State.setHead_txWire : (s.setHead i).txWire = s.txWire := rfl
@[simp] theorem State.setHead_txLen : (s.setHead i).txLen = s.txLen := rfl
@[simp] theorem State.setHead_response : (s.setHead i).response = s.response := rfl
@[simp] theorem State.setHead_acceptedFrom : (s.setHead i).acceptedFrom = s.acceptedFrom := rfl
@[simp] theorem State.setHead_requesterQ : (s.setHead i).requesterQ = s.requesterQ := rfl
@[simp] theorem State.setHead_producerQ : (s.setHead i).producerQ = s.producerQ := rfl
@[simp] theorem State.setHead_accepted : (s.setHead i).accepted = s.accepted := rfl
@[simp] theorem State.setHead_resetLine : (s.setHead i).resetLine = s.resetLine := rfl
@[simp] theorem State.setHead_epoch : (s.setHead i).epoch = s.epoch := rfl

end

/-! ## setTail -/

section
variable (s : State) (i : Nat)

@[simp] theorem State.setTail_cfg : (s.setTail i).cfg = s.cfg := rfl
@[simp] theorem State.setTail_rxbuf : (s.setTail i).rxbuf = s.rxbuf := rfl
@[simp] theorem State.setTail_head : (s.setTail i).head = s.head := rfl
@[simp] theorem State.setTail_tail : (s.setTail i).tail = BitVec.ofNat 8 i := rfl
@[simp] theorem State.setTail_scratch : (s.setTail i).scratch = s.scratch := rfl
@[simp] theorem State.setTail_pktCmd : (s.setTail i).pktCmd = s.pktCmd := rfl
@[simp] theorem State.setTail_pktLen : (s.setTail i).pktLen = s.pktLen := rfl
@[simp] theorem State.setTail_pktCount : (s.setTail i).pktCount = s.pktCount := rfl
@[simp] theorem State.setTail_pktStatus : (s.setTail i).pktStatus = s.pktStatus := rfl
@[simp] theorem State.setTail_txData : (s.setTail i).txData = s.txData := rfl
@[simp] theorem State.setTail_txWire : (s.setTail i).txWire = s.txWire := rfl
@[simp] theorem State.setTail_txLen : (s.setTail i).txLen = s.txLen := rfl
@[simp] theorem State.setTail_response : (s.setTail i).response = s.response := rfl
@[simp] theorem State.setTail_acceptedFrom : (s.setTail i).acceptedFrom = s.acceptedFrom := rfl
@[simp] theorem State.setTail_requesterQ : (s.setTail i).requesterQ = s.requesterQ := rfl
@[simp] theorem State.setTail_producerQ : (s.setTail i).producerQ = s.producerQ := rfl
@[simp] theorem State.setTail_accepted : (s.setTail i).accepted = s.accepted := rfl
@[simp] theorem State.setTail_resetLine : (s.setTail i).resetLine = s.resetLine := rfl
@[simp] theorem State.setTail_epoch : (s.setTail i).epoch = s.epoch := rfl

end

/-! ## respond -/

section
variable (s : State) (r0 r1 r2 : Byte) (r3 : Word9)

@[simp] theorem State.respond_cfg : (s.respond r0 r1 r2 r3).cfg = s.cfg := rfl
@[simp] theorem State.respond_rxbuf : (s.respond r0 r1 r2 r3).rxbuf = s.rxbuf := rfl
@[simp] theorem State.respond_head : (s.respond r0 r1 r2 r3).head = s.head := rfl
@[simp] theorem State.respond_tail : (s.respond r0 r1 r2 r3).tail = s.tail := rfl
@[simp] theorem State.respond_scratch : (s.respond r0 r1 r2 r3).scratch = s.scratch := rfl
@[simp] theorem State.respond_pktCmd : (s.respond r0 r1 r2 r3).pktCmd = s.pktCmd := rfl
@[simp] theorem State.respond_pktLen : (s.respond r0 r1 r2 r3).pktLen = s.pktLen := rfl
@[simp] theorem State.respond_pktCount : (s.respond r0 r1 r2 r3).pktCount = s.pktCount := rfl
@[simp] theorem State.respond_pktStatus : (s.respond r0 r1 r2 r3).pktStatus = s.pktStatus := rfl
@[simp] theorem State.respond_txData : (s.respond r0 r1 r2 r3).txData = s.txData := rfl
@[simp] theorem State.respond_txWire : (s.respond r0 r1 r2 r3).txWire = s.txWire := rfl
@[simp] theorem State.respond_txLen : (s.respond r0 r1 r2 r3).txLen = s.txLen := rfl
@[simp] theorem State.respond_response :
    (s.respond r0 r1 r2 r3).response = some { status := Status.code .ok, r0 := r0, r1 := r1, r2 := r2, r3 := r3 } := rfl
@[simp] theorem State.respond_acceptedFrom :
    (s.respond r0 r1 r2 r3).acceptedFrom = s.acceptedFrom := rfl
@[simp] theorem State.respond_requesterQ : (s.respond r0 r1 r2 r3).requesterQ = s.requesterQ := rfl
@[simp] theorem State.respond_producerQ : (s.respond r0 r1 r2 r3).producerQ = s.producerQ := rfl
@[simp] theorem State.respond_accepted : (s.respond r0 r1 r2 r3).accepted = s.accepted := rfl
@[simp] theorem State.respond_resetLine : (s.respond r0 r1 r2 r3).resetLine = s.resetLine := rfl
@[simp] theorem State.respond_epoch : (s.respond r0 r1 r2 r3).epoch = s.epoch := rfl

end

/-! ## raise -/

section
variable (s : State) (e : Status)

@[simp] theorem State.raise_cfg : (s.raise e).cfg = s.cfg := rfl
@[simp] theorem State.raise_rxbuf : (s.raise e).rxbuf = s.rxbuf := rfl
@[simp] theorem State.raise_head : (s.raise e).head = s.head := rfl
@[simp] theorem State.raise_tail : (s.raise e).tail = s.tail := rfl
@[simp] theorem State.raise_scratch : (s.raise e).scratch = s.scratch := rfl
@[simp] theorem State.raise_pktCmd : (s.raise e).pktCmd = s.pktCmd := rfl
@[simp] theorem State.raise_pktLen : (s.raise e).pktLen = s.pktLen := rfl
@[simp] theorem State.raise_pktCount : (s.raise e).pktCount = s.pktCount := rfl
@[simp] theorem State.raise_pktStatus : (s.raise e).pktStatus = s.pktStatus := rfl
@[simp] theorem State.raise_txData : (s.raise e).txData = s.txData := rfl
@[simp] theorem State.raise_txWire : (s.raise e).txWire = s.txWire := rfl
@[simp] theorem State.raise_txLen : (s.raise e).txLen = s.txLen := rfl
@[simp] theorem State.raise_response :
    (s.raise e).response = some { status := Status.code e, r0 := 0, r1 := 0, r2 := 0, r3 := 0 } := rfl
@[simp] theorem State.raise_acceptedFrom : (s.raise e).acceptedFrom = s.acceptedFrom := rfl
@[simp] theorem State.raise_requesterQ : (s.raise e).requesterQ = s.requesterQ := rfl
@[simp] theorem State.raise_producerQ : (s.raise e).producerQ = s.producerQ := rfl
@[simp] theorem State.raise_accepted : (s.raise e).accepted = s.accepted := rfl
@[simp] theorem State.raise_resetLine : (s.raise e).resetLine = s.resetLine := rfl
@[simp] theorem State.raise_epoch : (s.raise e).epoch = s.epoch := rfl

end

/-! ## commitParse -/

section
variable (s : State) (p : Parse)

@[simp] theorem State.commitParse_cfg : (s.commitParse p).cfg = s.cfg := rfl
@[simp] theorem State.commitParse_rxbuf : (s.commitParse p).rxbuf = s.rxbuf := rfl
@[simp] theorem State.commitParse_head : (s.commitParse p).head = s.head := rfl
@[simp] theorem State.commitParse_tail : (s.commitParse p).tail = BitVec.ofNat 8 p.newTail := rfl
@[simp] theorem State.commitParse_scratch : (s.commitParse p).scratch = p.scratch := rfl
@[simp] theorem State.commitParse_pktCmd : (s.commitParse p).pktCmd = p.cmd := rfl
@[simp] theorem State.commitParse_pktLen : (s.commitParse p).pktLen = p.len := rfl
@[simp] theorem State.commitParse_pktCount : (s.commitParse p).pktCount = BitVec.ofNat 9 p.k := rfl
@[simp] theorem State.commitParse_pktStatus : (s.commitParse p).pktStatus = p.status := rfl
@[simp] theorem State.commitParse_txData : (s.commitParse p).txData = s.txData := rfl
@[simp] theorem State.commitParse_txWire : (s.commitParse p).txWire = s.txWire := rfl
@[simp] theorem State.commitParse_txLen : (s.commitParse p).txLen = s.txLen := rfl
@[simp] theorem State.commitParse_response : (s.commitParse p).response = s.response := rfl
@[simp] theorem State.commitParse_acceptedFrom :
    (s.commitParse p).acceptedFrom = s.acceptedFrom := rfl
@[simp] theorem State.commitParse_requesterQ : (s.commitParse p).requesterQ = s.requesterQ := rfl
@[simp] theorem State.commitParse_producerQ : (s.commitParse p).producerQ = s.producerQ := rfl
@[simp] theorem State.commitParse_accepted : (s.commitParse p).accepted = s.accepted := rfl
@[simp] theorem State.commitParse_resetLine : (s.commitParse p).resetLine = s.resetLine := rfl
@[simp] theorem State.commitParse_epoch : (s.commitParse p).epoch = s.epoch := rfl

end

/-! ## present -/

section
variable (s : State) (r : Request)

@[simp] theorem State.present_cfg : (s.present r).cfg = s.cfg := rfl
@[simp] theorem State.present_rxbuf : (s.present r).rxbuf = s.rxbuf := rfl
@[simp] theorem State.present_head : (s.present r).head = s.head := rfl
@[simp] theorem State.present_tail : (s.present r).tail = s.tail := rfl
@[simp] theorem State.present_scratch : (s.present r).scratch = s.scratch := rfl
@[simp] theorem State.present_pktCmd : (s.present r).pktCmd = s.pktCmd := rfl
@[simp] theorem State.present_pktLen : (s.present r).pktLen = s.pktLen := rfl
@[simp] theorem State.present_pktCount : (s.present r).pktCount = s.pktCount := rfl
@[simp] theorem State.present_pktStatus : (s.present r).pktStatus = s.pktStatus := rfl
@[simp] theorem State.present_txData : (s.present r).txData = s.txData := rfl
@[simp] theorem State.present_txWire : (s.present r).txWire = s.txWire := rfl
@[simp] theorem State.present_txLen : (s.present r).txLen = s.txLen := rfl
@[simp] theorem State.present_response : (s.present r).response = s.response := rfl
@[simp] theorem State.present_acceptedFrom : (s.present r).acceptedFrom = s.acceptedFrom := rfl
@[simp] theorem State.present_requesterQ : (s.present r).requesterQ =
    if s.resetLine then s.requesterQ else s.requesterQ ++ [r] := rfl
@[simp] theorem State.present_producerQ : (s.present r).producerQ = s.producerQ := rfl
@[simp] theorem State.present_accepted : (s.present r).accepted = s.accepted := rfl
@[simp] theorem State.present_resetLine : (s.present r).resetLine = s.resetLine := rfl
@[simp] theorem State.present_epoch : (s.present r).epoch = s.epoch := rfl

end

/-! ## presentProducer -/

section
variable (s : State) (w : RequestWord)

@[simp] theorem State.presentProducer_cfg : (s.presentProducer w).cfg = s.cfg := rfl
@[simp] theorem State.presentProducer_rxbuf : (s.presentProducer w).rxbuf = s.rxbuf := rfl
@[simp] theorem State.presentProducer_head : (s.presentProducer w).head = s.head := rfl
@[simp] theorem State.presentProducer_tail : (s.presentProducer w).tail = s.tail := rfl
@[simp] theorem State.presentProducer_scratch : (s.presentProducer w).scratch = s.scratch := rfl
@[simp] theorem State.presentProducer_pktCmd : (s.presentProducer w).pktCmd = s.pktCmd := rfl
@[simp] theorem State.presentProducer_pktLen : (s.presentProducer w).pktLen = s.pktLen := rfl
@[simp] theorem State.presentProducer_pktCount : (s.presentProducer w).pktCount = s.pktCount := rfl
@[simp] theorem State.presentProducer_pktStatus :
    (s.presentProducer w).pktStatus = s.pktStatus := rfl
@[simp] theorem State.presentProducer_txData : (s.presentProducer w).txData = s.txData := rfl
@[simp] theorem State.presentProducer_txWire : (s.presentProducer w).txWire = s.txWire := rfl
@[simp] theorem State.presentProducer_txLen : (s.presentProducer w).txLen = s.txLen := rfl
@[simp] theorem State.presentProducer_response : (s.presentProducer w).response = s.response := rfl
@[simp] theorem State.presentProducer_acceptedFrom :
    (s.presentProducer w).acceptedFrom = s.acceptedFrom := rfl
@[simp] theorem State.presentProducer_requesterQ :
    (s.presentProducer w).requesterQ = s.requesterQ := rfl
@[simp] theorem State.presentProducer_producerQ :
    (s.presentProducer w).producerQ =
      if s.resetLine then s.producerQ else s.producerQ ++ [w] := rfl
@[simp] theorem State.presentProducer_accepted : (s.presentProducer w).accepted = s.accepted := rfl
@[simp] theorem State.presentProducer_resetLine :
    (s.presentProducer w).resetLine = s.resetLine := rfl
@[simp] theorem State.presentProducer_epoch : (s.presentProducer w).epoch = s.epoch := rfl

end

/-! ## placeFirst -/

section
variable (s : State) (r : Request)

@[simp] theorem State.placeFirst_cfg : (s.placeFirst r).cfg = s.cfg := rfl
@[simp] theorem State.placeFirst_rxbuf : (s.placeFirst r).rxbuf = s.rxbuf := rfl
@[simp] theorem State.placeFirst_head : (s.placeFirst r).head = s.head := rfl
@[simp] theorem State.placeFirst_tail : (s.placeFirst r).tail = s.tail := rfl
@[simp] theorem State.placeFirst_scratch : (s.placeFirst r).scratch = s.scratch := rfl
@[simp] theorem State.placeFirst_pktCmd : (s.placeFirst r).pktCmd = s.pktCmd := rfl
@[simp] theorem State.placeFirst_pktLen : (s.placeFirst r).pktLen = s.pktLen := rfl
@[simp] theorem State.placeFirst_pktCount : (s.placeFirst r).pktCount = s.pktCount := rfl
@[simp] theorem State.placeFirst_pktStatus : (s.placeFirst r).pktStatus = s.pktStatus := rfl
@[simp] theorem State.placeFirst_txData : (s.placeFirst r).txData = s.txData := rfl
@[simp] theorem State.placeFirst_txWire : (s.placeFirst r).txWire = s.txWire := rfl
@[simp] theorem State.placeFirst_txLen : (s.placeFirst r).txLen = s.txLen := rfl
@[simp] theorem State.placeFirst_response : (s.placeFirst r).response = s.response := rfl
@[simp] theorem State.placeFirst_acceptedFrom : (s.placeFirst r).acceptedFrom = s.acceptedFrom := rfl
@[simp] theorem State.placeFirst_requesterQ : (s.placeFirst r).requesterQ = r :: s.requesterQ := rfl
@[simp] theorem State.placeFirst_producerQ : (s.placeFirst r).producerQ = [] := rfl
@[simp] theorem State.placeFirst_accepted : (s.placeFirst r).accepted = s.accepted := rfl
@[simp] theorem State.placeFirst_resetLine : (s.placeFirst r).resetLine = s.resetLine := rfl
@[simp] theorem State.placeFirst_epoch : (s.placeFirst r).epoch = s.epoch := rfl

end

/-! ## takeReset -/

section
variable (s : State) (line : Bool)

@[simp] theorem State.takeReset_cfg : (s.takeReset line).cfg = s.cfg := rfl
@[simp] theorem State.takeReset_rxbuf : (s.takeReset line).rxbuf = [] := rfl
@[simp] theorem State.takeReset_head : (s.takeReset line).head = 0 := rfl
@[simp] theorem State.takeReset_tail : (s.takeReset line).tail = 0 := rfl
@[simp] theorem State.takeReset_scratch : (s.takeReset line).scratch = [] := rfl
@[simp] theorem State.takeReset_pktCmd : (s.takeReset line).pktCmd = 0x00 := rfl
@[simp] theorem State.takeReset_pktLen : (s.takeReset line).pktLen = 0x00 := rfl
@[simp] theorem State.takeReset_pktCount : (s.takeReset line).pktCount = 0 := rfl
@[simp] theorem State.takeReset_pktStatus : (s.takeReset line).pktStatus = 0x00 := rfl
@[simp] theorem State.takeReset_txData : (s.takeReset line).txData = [] := rfl
@[simp] theorem State.takeReset_txWire : (s.takeReset line).txWire = [] := rfl
@[simp] theorem State.takeReset_txLen : (s.takeReset line).txLen = 0 := rfl
@[simp] theorem State.takeReset_response : (s.takeReset line).response = none := rfl
@[simp] theorem State.takeReset_acceptedFrom : (s.takeReset line).acceptedFrom = .requester := rfl
@[simp] theorem State.takeReset_requesterQ : (s.takeReset line).requesterQ = [] := rfl
@[simp] theorem State.takeReset_producerQ : (s.takeReset line).producerQ = [] := rfl
@[simp] theorem State.takeReset_accepted : (s.takeReset line).accepted = s.accepted := rfl
@[simp] theorem State.takeReset_resetLine : (s.takeReset line).resetLine = line := rfl
@[simp] theorem State.takeReset_epoch : (s.takeReset line).epoch = s.epoch + 1 := rfl

end

/-! ## The reset input, in terms of takeReset -/

theorem State.holdReset_eq (s : State) : s.holdReset = s.takeReset s.resetLine := rfl

@[simp] theorem State.driveReset_true (s : State) : s.driveReset true = s.takeReset true := rfl

theorem State.driveReset_false_of_asserted {s : State} (h : s.resetLine = true) :
    s.driveReset false = s.takeReset false := by simp [State.driveReset, h]

theorem State.driveReset_false_of_released {s : State} (h : s.resetLine = false) :
    s.driveReset false = s := by simp [State.driveReset, h]

theorem State.presentFirst_of_released {s : State} (h : s.resetLine = false) (r : Request) :
    s.presentFirst r = s.placeFirst r := by
  rw [State.presentFirst, State.driveReset_false_of_released h]

theorem State.presentFirst_of_asserted {s : State} (h : s.resetLine = true) (r : Request) :
    s.presentFirst r = (s.takeReset false).placeFirst r := by
  rw [State.presentFirst, State.driveReset_false_of_asserted h]

/-! ## Reads of the index spaces after an update -/

section
variable (s : State)

@[simp] theorem State.respond_readByte (r0 r1 r2 : Byte) (r3 : Word9) (sp : Space) (i : Nat) :
    (s.respond r0 r1 r2 r3).readByte sp i = s.readByte sp i := by cases sp <;> rfl

@[simp] theorem State.raise_readByte (e : Status) (sp : Space) (i : Nat) :
    (s.raise e).readByte sp i = s.readByte sp i := by cases sp <;> rfl

@[simp] theorem State.setHead_readByte (j : Nat) (sp : Space) (i : Nat) :
    (s.setHead j).readByte sp i = s.readByte sp i := by cases sp <;> rfl

@[simp] theorem State.setTail_readByte (j : Nat) (sp : Space) (i : Nat) :
    (s.setTail j).readByte sp i = s.readByte sp i := by cases sp <;> rfl

@[simp] theorem State.respond_pending (r0 r1 r2 : Byte) (r3 : Word9) :
    (s.respond r0 r1 r2 r3).pending = s.pending := rfl

@[simp] theorem State.raise_pending (e : Status) : (s.raise e).pending = s.pending := rfl

@[simp] theorem State.respond_window (r0 r1 r2 : Byte) (r3 : Word9) :
    (s.respond r0 r1 r2 r3).window = s.window := rfl

@[simp] theorem State.raise_window (e : Status) : (s.raise e).window = s.window := rfl

end

end Sys2Proof.Machine
end

