-- ==== Sys2Proof/Laws/Memory.lean ====
section
/-! SUPPORT. Reading and writing the index spaces: a read after a write, and the canonical form that
every memory operation keeps. -/

namespace Sys2Proof.Machine

@[simp] theorem Memory.read_nil (i : Nat) : Memory.read [] i = none := rfl

@[simp] theorem Memory.read_write_same (m : Memory) (i : Nat) (v : Byte) :
    (m.write i v).read i = some v := by
  induction m with
  | nil => simp [Memory.write, Memory.read]
  | cons c m ih => grind [Memory.write, Memory.read]

theorem Memory.read_write_of_ne (m : Memory) {i j : Nat} (v : Byte) (h : j ≠ i) :
    (m.write i v).read j = m.read j := by
  induction m with
  | nil => simp [Memory.write, Memory.read, h.symm]
  | cons c m ih => grind [Memory.write, Memory.read]

/-- Every cell after a write was listed before or is the written one. -/
theorem Memory.mem_write {m : Memory} {i : Nat} {v : Byte} {c : Host.Cell}
    (h : c ∈ m.write i v) : c = (i, v) ∨ c ∈ m := by
  induction m with
  | nil => simpa [Memory.write] using h
  | cons d m ih => grind [Memory.write]

theorem Memory.wf_write {m : Memory} (h : m.wf) (i : Nat) (v : Byte) : (m.write i v).wf := by
  induction m with
  | nil => simp [Memory.write]
  | cons d m ih =>
    obtain ⟨hd, hm⟩ := List.pairwise_cons.mp h
    unfold Memory.write
    split
    · refine List.pairwise_cons.mpr ⟨fun c hc => ?_, h⟩
      rcases List.mem_cons.mp hc with rfl | hc
      · assumption
      · exact Nat.lt_trans ‹_› (hd c hc)
    · split
      · subst_vars
        exact List.pairwise_cons.mpr ⟨hd, hm⟩
      · refine List.pairwise_cons.mpr ⟨fun c hc => ?_, ih hm⟩
        rcases Memory.mem_write hc with rfl | hc
        · simp only; omega
        · exact hd c hc

theorem Memory.below_write {m : Memory} {n : Nat} (h : m.below n) {i : Nat} (hi : i < n) (v : Byte) :
    (m.write i v).below n := by
  intro c hc
  rcases Memory.mem_write hc with rfl | hc
  · exact hi
  · exact h c hc

theorem Memory.read_writeList (m : Memory) (i : Nat) (bs : List Byte) (j : Nat) :
    (m.writeList i bs).read j =
      if i ≤ j ∧ j < i + bs.length then bs[j - i]? else m.read j := by
  induction bs generalizing m i with
  | nil => simp [Memory.writeList]
  | cons b bs ih =>
    rw [Memory.writeList, ih]
    by_cases hj : j = i
    · subst hj; simp
    · rw [Memory.read_write_of_ne _ _ hj]
      by_cases h : i + 1 ≤ j ∧ j < i + 1 + bs.length
      · have h' : i ≤ j ∧ j < i + (b :: bs).length := by simp; omega
        have hs : j - i = (j - (i + 1)) + 1 := by omega
        rw [if_pos h, if_pos h', hs, List.getElem?_cons_succ]
      · have h' : ¬(i ≤ j ∧ j < i + (b :: bs).length) := by simp; omega
        simp only [h, h', if_false]

theorem Memory.wf_writeList {m : Memory} (h : m.wf) (i : Nat) (bs : List Byte) :
    (m.writeList i bs).wf := by
  induction bs generalizing m i with
  | nil => exact h
  | cons b bs ih => exact ih (Memory.wf_write h i b) (i + 1)

theorem Memory.below_writeList {m : Memory} {n : Nat} (h : m.below n) (i : Nat) (bs : List Byte)
    (hi : i + bs.length ≤ n) : (m.writeList i bs).below n := by
  induction bs generalizing m i with
  | nil => exact h
  | cons b bs ih =>
    simp only [List.length_cons] at hi
    exact ih (Memory.below_write h (by omega) b) (i + 1) (by omega)

/-- A write takes no written byte away. -/
theorem Memory.read_eq_none_of_write {m : Memory} {i k : Nat} {v : Byte}
    (h : (m.write i v).read k = none) : m.read k = none := by
  by_cases hk : k = i
  · subst hk; simp at h
  · rwa [Memory.read_write_of_ne _ _ hk] at h

theorem Memory.read_eq_none_of_writeList {m : Memory} {i k : Nat} {bs : List Byte}
    (h : (m.writeList i bs).read k = none) : m.read k = none := by
  induction bs generalizing m i with
  | nil => exact h
  | cons b bs ih => exact Memory.read_eq_none_of_write (ih h)

/-! ## Reads of one byte -/

@[simp] theorem cellAt_write_same (e : Nat) (sp : Space) (m : Memory) (i : Nat) (v : Byte) :
    cellAt e sp (m.write i v) i = v := by simp [cellAt]

theorem cellAt_write_of_ne (e : Nat) (sp : Space) (m : Memory) {i j : Nat} (v : Byte) (h : j ≠ i) :
    cellAt e sp (m.write i v) j = cellAt e sp m j := by
  simp [cellAt, Memory.read_write_of_ne m v h]

/-- Inside a written list each entry reads as its byte. -/
theorem cellAt_writeList_of_lt (e : Nat) (sp : Space) (m : Memory) (bs : List Byte) {j : Nat}
    (h : j < bs.length) : cellAt e sp (m.writeList 0 bs) j = bs.getD j 0 := by
  simp [cellAt, Memory.read_writeList, h]

/-- Above a written list each entry reads as before. -/
theorem cellAt_writeList_of_ge (e : Nat) (sp : Space) (m : Memory) (bs : List Byte) {j : Nat}
    (h : bs.length ≤ j) : cellAt e sp (m.writeList 0 bs) j = cellAt e sp m j := by
  have h' : ¬ j < bs.length := by omega
  simp [cellAt, Memory.read_writeList, h']

theorem State.readByte_rxbuf (s : State) (i : Nat) :
    s.readByte .rxbuf i = cellAt s.epoch .rxbuf s.rxbuf i := rfl

theorem State.readByte_scratch (s : State) (i : Nat) :
    s.readByte .scratch i = cellAt s.epoch .scratch s.scratch i := rfl

theorem State.readByte_txData (s : State) (i : Nat) :
    s.readByte .txData i = cellAt s.epoch .txData s.txData i := rfl

theorem State.readByte_txWire (s : State) (i : Nat) :
    s.readByte .txWire i = cellAt s.epoch .txWire s.txWire i := rfl

@[simp] theorem State.length_readSlice (s : State) (sp : Space) (i n : Nat) :
    (s.readSlice sp i n).length = n := by simp [State.readSlice]

/-- A slice depends only on the bytes it reads. -/
theorem State.readSlice_congr {s t : State} {sp : Space} (i n : Nat)
    (h : ∀ j, j < n → s.readByte sp (i + j) = t.readByte sp (i + j)) :
    s.readSlice sp i n = t.readSlice sp i n := by
  unfold State.readSlice
  exact List.map_congr_left fun j hj => h j (List.mem_range.mp hj)

/-- A list that agrees with a space entry by entry is the slice. -/
theorem State.readSlice_eq_of {s : State} {sp : Space} {i : Nat} {w : List Byte}
    (h : ∀ j, j < w.length → s.readByte sp (i + j) = w.getD j 0) :
    s.readSlice sp i w.length = w := by
  apply List.ext_getElem
  · simp
  · intro j h1 h2
    have := h j h2
    simp [State.readSlice, this, h2]

end Sys2Proof.Machine
end

