-- ==== Sys2Proof/Laws/Cursor.lean ====
section
/-! SUPPORT. Cursor arithmetic modulo RX_CAP, the pending count and the window of unread bytes. -/

namespace Sys2Proof.Machine

/-! ## modSub -/

theorem modSub_lt (a b : Nat) {m : Nat} (hm : 0 < m) : modSub a b m < m := Nat.mod_lt _ hm

/-- `modSub` is the mathematical remainder of 00_scope.md R11. -/
theorem modSub_eq_emod (a b : Nat) {m : Nat} (hm : 0 < m) :
    (modSub a b m : Int) = ((a : Int) - b) % m := by
  have hb : b % m ≤ m := (Nat.mod_lt b hm).le
  unfold modSub
  push_cast [Nat.cast_sub hb]
  rw [show (a : Int) + (m - (b : Int) % m) = (a - (b : Int) % m) + m by ring, Int.add_emod_right,
    Int.sub_emod, Int.emod_emod_of_dvd _ (dvd_refl _), ← Int.sub_emod]

theorem modSub_self (a : Nat) {m : Nat} (hm : 0 < m) : modSub a a m = 0 := by
  have h := modSub_eq_emod a a hm
  simpa using h

/-- Inside the cursor range `modSub` is a difference with at most one wrap. -/
theorem modSub_of_lt {a b m : Nat} (ha : a < m) (hb : b < m) :
    modSub a b m = if b ≤ a then a - b else a + m - b := by
  unfold modSub
  rw [Nat.mod_eq_of_lt hb]
  split
  · rw [show a + (m - b) = (a - b) + m by omega, Nat.add_mod_right, Nat.mod_eq_of_lt (by omega)]
  · rw [Nat.mod_eq_of_lt (by omega)]; omega

/-- Addition modulo `m` inside the cursor range, with at most one wrap. -/
theorem addMod_of_lt {a d m : Nat} (ha : a < m) (hd : d ≤ m) :
    (a + d) % m = if a + d < m then a + d else a + d - m := by
  split
  · exact Nat.mod_eq_of_lt ‹_›
  · rw [Nat.mod_eq_sub_mod (by omega), Nat.mod_eq_of_lt (by omega)]

/-- Moving on by `d` and looking back gives `d`. -/
theorem modSub_addMod {a d m : Nat} (ha : a < m) (hd : d < m) : modSub ((a + d) % m) a m = d := by
  have hm : 0 < m := by omega
  rw [modSub_of_lt (Nat.mod_lt _ hm) ha, addMod_of_lt ha hd.le]
  split <;> split <;> omega

/-- Moving on from `b` by the distance to `a` arrives at `a`. -/
theorem addMod_modSub {a b m : Nat} (ha : a < m) (hb : b < m) : (b + modSub a b m) % m = a := by
  have h := modSub_lt a b (Nat.lt_of_le_of_lt (Nat.zero_le _) hb)
  rw [addMod_of_lt hb h.le, modSub_of_lt ha hb]
  split <;> split <;> omega

/-- Moving the subtrahend on by `d` takes `d` off the difference. -/
theorem modSub_addMod_right {a b d m : Nat} (ha : a < m) (hb : b < m) (hd : d ≤ modSub a b m) :
    modSub a ((b + d) % m) m = modSub a b m - d := by
  have hm : 0 < m := by omega
  have hlt := modSub_lt a b hm
  rw [modSub_of_lt ha hb] at hd hlt ⊢
  rw [modSub_of_lt ha (Nat.mod_lt _ hm), addMod_of_lt hb (by omega)]
  split at hd <;> split <;> split <;> omega

/-! ## Legal cursors -/

section
variable {s : State} (h : s.CursorsLegal)
include h

theorem State.CursorsLegal.cap_pos : 0 < s.cfg.rxCap := by have := h.1.1; omega

theorem State.CursorsLegal.cap_le : s.cfg.rxCap ≤ 255 := h.1.1.2

theorem State.CursorsLegal.pending_lt : s.pending < s.cfg.rxCap := modSub_lt _ _ h.cap_pos

/-- A cursor value fits the 8-bit registers (41_rxbuffer.md R136). -/
theorem State.CursorsLegal.toNat_ofNat {i : Nat} (hi : i < s.cfg.rxCap) :
    (BitVec.ofNat 8 i).toNat = i := by
  have := h.cap_le
  simp; omega

/-- PENDING as the remainder of 10_state.md R26. -/
theorem State.CursorsLegal.pending_eq_emod :
    (s.pending : Int) = ((s.head.toNat : Int) - s.tail.toNat) % s.cfg.rxCap :=
  modSub_eq_emod _ _ h.cap_pos

/-- Full is PENDING = RX_CAP - 1 (10_state.md R26). -/
theorem State.CursorsLegal.full_iff : s.full = true ↔ s.pending = s.cfg.rxCap - 1 := by
  have hc := h.1.1
  have h1 := h.2.1
  have h2 := h.2.2
  rw [State.full, beq_iff_eq, State.pending, modSub_of_lt h1 h2, addMod_of_lt h1 (by omega)]
  split <;> split <;> omega

/-- HEAD is TAIL moved on by PENDING. -/
theorem State.CursorsLegal.head_eq : (s.tail.toNat + s.pending) % s.cfg.rxCap = s.head.toNat :=
  addMod_modSub h.2.1 h.2.2

end

/-! ## The window -/

@[simp] theorem State.length_window (s : State) : s.window.length = s.pending := by
  simp [State.window]

theorem State.window_getElem (s : State) {i : Nat} (h : i < s.window.length) :
    s.window[i] = s.readByte .rxbuf (s.windowIndex i) := by simp [State.window]

/-- The window depends only on the unread bytes. -/
theorem State.window_eq_of {s : State} {w : List Byte} (hl : w.length = s.pending)
    (h : ∀ (i : Nat) (hi : i < w.length), s.readByte .rxbuf (s.windowIndex i) = w[i]) :
    s.window = w := by
  apply List.ext_getElem
  · simp [hl]
  · intro i h1 h2
    rw [State.window_getElem _ h1, h i h2]

/-- Moving TAIL on by `d` unread bytes drops them from the window (41_rxbuffer.md R137). -/
theorem State.CursorsLegal.window_of_tail {s t : State} (h : s.CursorsLegal) {d : Nat}
    (hd : d ≤ s.pending) (hcfg : t.cfg = s.cfg) (hhead : t.head = s.head)
    (hmem : KeepsSpace .rxbuf s t) (htail : t.tail.toNat = (s.tail.toNat + d) % s.cfg.rxCap) :
    t.pending = s.pending - d ∧ t.window = s.window.drop d := by
  have key : t.pending = s.pending - d := by
    unfold State.pending at hd ⊢
    rw [hcfg, hhead, htail, modSub_addMod_right h.2.1 h.2.2 hd]
  refine ⟨key, State.window_eq_of (by simp [key]) fun i hi => ?_⟩
  rw [List.getElem_drop, State.window_getElem, hmem]
  congr 1
  unfold State.windowIndex
  rw [hcfg, htail, Nat.mod_add_mod, Nat.add_assoc]

end Sys2Proof.Machine
end

