-- ==== Sys2Proof/Laws/Codec.lean ====
section
/-! SUPPORT. The small lemmas of the byte-stuffing codec and the checksum. -/

namespace Sys2Proof.Machine

/-! ## The decoder step -/

@[simp] theorem dec_of_pending (x : Byte) :
    dec x true = { hasOut := true, raw := x + 1, escOut := false } := rfl

@[simp] theorem dec_escape :
    dec ESCAPE false = { hasOut := false, raw := 0x00, escOut := true } := by decide

theorem dec_of_literal {x : Byte} (h : x ≠ ESCAPE) :
    dec x false = { hasOut := true, raw := x, escOut := false } := by simp [dec, h]

/-! ## Stuffing -/

theorem stuff_of_plain {b : Byte} (h1 : b ≠ START) (h2 : b ≠ ESCAPE) : stuff b = [b] := by
  simp [stuff, h1, h2]

theorem stuff_ne_nil (b : Byte) : stuff b ≠ [] := by unfold stuff; split <;> simp

/-- No stuffing holds START (40_codec.md R104). -/
theorem start_notMem_stuff (b : Byte) : START ∉ stuff b := by revert b; decide

@[simp] theorem stuffSeq_nil : stuffSeq [] = [] := rfl

@[simp] theorem stuffSeq_cons (b : Byte) (bs : List Byte) :
    stuffSeq (b :: bs) = stuff b ++ stuffSeq bs := by simp [stuffSeq]

@[simp] theorem stuffSeq_append (as bs : List Byte) :
    stuffSeq (as ++ bs) = stuffSeq as ++ stuffSeq bs := by simp [stuffSeq]

@[simp] theorem unstuffFrom_nil (e : Bool) : unstuffFrom e [] = [] := rfl

/-- Decoding one stuffed byte at the front gives that byte and no pending escape
(40_codec.md R104). -/
theorem unstuffFrom_stuff_append (b : Byte) (rest : List Byte) :
    unstuffFrom false (stuff b ++ rest) = b :: unstuffFrom false rest := by
  by_cases h1 : b = START
  · subst h1; simp [stuff, unstuffFrom, dec]
  · by_cases h2 : b = ESCAPE
    · subst h2; simp [stuff, unstuffFrom, dec]
    · simp [stuff_of_plain h1 h2, unstuffFrom, dec, h2]

/-! ## Checksum -/

@[simp] theorem chk_nil : chk [] = 0 := rfl

theorem foldl_sub_eq (c : Byte) (seq : List Byte) :
    seq.foldl (fun c b => c - b) c = c + chk seq := by
  unfold chk
  induction seq generalizing c with
  | nil => simp
  | cons b bs ih => rw [List.foldl_cons, List.foldl_cons, ih, ih (0 - b)]; ring

@[simp] theorem chk_cons (b : Byte) (bs : List Byte) : chk (b :: bs) = chk bs - b := by
  rw [chk, List.foldl_cons, foldl_sub_eq]; ring

@[simp] theorem chk_append (as bs : List Byte) : chk (as ++ bs) = chk as + chk bs := by
  rw [chk, List.foldl_append, foldl_sub_eq]; rfl

end Sys2Proof.Machine
end

