-- ==== Sys2Proof/Laws/Parser.lean ====
section
/-! SUPPORT. The parser's phases in closed form: FIND_START as a split of the window, FILL_SCRATCH as
the writing of the span's raw bytes, and the parse of each shape of window. -/

namespace Sys2Proof.Machine

/-! ## FIND_START (42_parser.md R162) -/

theorem findStart_eq_none {w : List Byte} {n : Nat} (h : START ∉ w.drop n) :
    findStart w n = none := by
  unfold findStart
  rw [Option.map_eq_none_iff, List.findIdx?_eq_none_iff]
  intro x hx
  simp only [beq_eq_false_iff_ne, ne_eq]
  rintro rfl
  exact h hx

/-- FIND_START over bytes without START followed by one gives that one's offset. -/
theorem findStart_eq_some {w pre rest : List Byte} {n : Nat} (hw : w.drop n = pre ++ START :: rest)
    (hpre : START ∉ pre) : findStart w n = some (pre.length + n) := by
  unfold findStart
  rw [hw, List.findIdx?_append, (List.findIdx?_eq_none_iff).mpr]
  · simp [List.findIdx?_cons]
  · intro x hx
    simp only [beq_eq_false_iff_ne, ne_eq]
    rintro rfl
    exact hpre hx

/-- A list without START, or split at its first one. -/
theorem split_at_start (w : List Byte) :
    START ∉ w ∨ ∃ pre rest, w = pre ++ START :: rest ∧ START ∉ pre := by
  induction w with
  | nil => simp
  | cons b bs ih =>
    by_cases hb : b = START
    · exact Or.inr ⟨[], bs, by simp [hb], by simp⟩
    · rcases ih with h | ⟨pre, rest, rfl, hp⟩
      · exact Or.inl (by simp [Ne.symm hb, h])
      · exact Or.inr ⟨b :: pre, rest, rfl, by simp [Ne.symm hb, hp]⟩

/-- The three shapes of a window: no START; one START; a START and a next one. -/
theorem window_shapes (w : List Byte) :
    START ∉ w ∨
    (∃ pre mid, w = pre ++ START :: mid ∧ START ∉ pre ∧ START ∉ mid) ∨
    ∃ pre mid post, w = pre ++ START :: mid ++ START :: post ∧ START ∉ pre ∧ START ∉ mid := by
  rcases split_at_start w with h | ⟨pre, rest, rfl, hp⟩
  · exact Or.inl h
  · rcases split_at_start rest with h | ⟨mid, post, rfl, hm⟩
    · exact Or.inr (Or.inl ⟨pre, rest, rfl, hp, h⟩)
    · exact Or.inr (Or.inr ⟨pre, mid, post, by simp, hp, hm⟩)

/-! ## FILL_SCRATCH (42_parser.md R166) -/

theorem Memory.writeList_append (m : Memory) (i : Nat) (as bs : List Byte) :
    m.writeList i (as ++ bs) = (m.writeList i as).writeList (i + as.length) bs := by
  induction as generalizing m i with
  | nil => rfl
  | cons a as ih =>
    simp only [List.cons_append, Memory.writeList, ih, List.length_cons]
    congr 1; omega

/-- The loop of FILL_SCRATCH from any point of it. -/
theorem foldl_fillByte (mp : Nat) (region : List Byte) (f : Fill) (hk : f.k ≤ mp) :
    let out := unstuffFrom f.esc region
    let r := region.foldl (fillByte mp) f
    r.scratch = f.scratch.writeList f.k (out.take (mp - f.k)) ∧
    r.k = f.k + min (mp - f.k) out.length ∧
    r.ovf = (f.ovf || decide (mp - f.k < out.length)) := by
  induction region generalizing f with
  | nil => simp [Memory.writeList]
  | cons x xs ih =>
    simp only [List.foldl_cons, unstuffFrom]
    by_cases ho : (dec x f.esc).hasOut = true
    · by_cases hlt : f.k < mp
      · have hs : fillByte mp f x =
            { scratch := f.scratch.write f.k (dec x f.esc).raw, k := f.k + 1,
              esc := (dec x f.esc).escOut, ovf := f.ovf } := by simp [fillByte, ho, hlt]
        have hsub : mp - f.k = (mp - (f.k + 1)) + 1 := by omega
        obtain ⟨h1, h2, h3⟩ := ih (fillByte mp f x) (by rw [hs]; exact hlt)
        rw [h1, h2, h3, hs]
        simp only [ho, if_true]
        refine ⟨by rw [hsub]; rfl, ?_, ?_⟩
        · simp only [List.length_cons]; omega
        · simp only [List.length_cons]; congr 1; simp; omega
      · have hs : fillByte mp f x = { f with esc := (dec x f.esc).escOut, ovf := true } := by
          simp [fillByte, ho, hlt]
        obtain ⟨h1, h2, h3⟩ := ih (fillByte mp f x) (by rw [hs]; exact hk)
        have h0 : mp - f.k = 0 := by omega
        rw [h1, h2, h3, hs]
        simp [ho, h0, Memory.writeList]
    · have hs : fillByte mp f x = { f with esc := (dec x f.esc).escOut } := by
        simp [fillByte, ho]
      obtain ⟨h1, h2, h3⟩ := ih (fillByte mp f x) (by rw [hs]; exact hk)
      rw [h1, h2, h3, hs]
      simp [ho]

/-- FILL_SCRATCH writes the span's raw bytes from entry 0 on, counts them, and reports the overflow
(42_parser.md R166). -/
theorem fillScratch_eq {mp : Nat} (hmp : 1 ≤ mp) (m : Memory) (region : List Byte) :
    (fillScratch mp m region).scratch = m.writeList 0 (spanRaw mp region) ∧
    (fillScratch mp m region).k = (spanRaw mp region).length ∧
    (fillScratch mp m region).ovf = spanOverflows mp region := by
  obtain ⟨h1, h2, h3⟩ := foldl_fillByte mp region
    { scratch := m.write 0 START, k := 1, esc := false, ovf := false } hmp
  have hsp : spanRaw mp region = START :: (unstuff region).take (mp - 1) := by
    obtain ⟨k, rfl⟩ : ∃ k, mp = k + 1 := ⟨mp - 1, by omega⟩
    simp [spanRaw]
  refine ⟨?_, ?_, ?_⟩
  · rw [fillScratch, h1, hsp]; rfl
  · rw [fillScratch, h2, hsp]; simp [unstuff]; omega
  · rw [fillScratch, h3, spanOverflows, Bool.false_or]
    exact decide_eq_decide.mpr (show mp - 1 < (unstuff region).length ↔ _ by omega)

theorem length_spanRaw_le (mp : Nat) (region : List Byte) : (spanRaw mp region).length ≤ mp := by
  simp [spanRaw]

theorem length_spanRaw_pos {mp : Nat} (hmp : 1 ≤ mp) (region : List Byte) :
    1 ≤ (spanRaw mp region).length := by simp [spanRaw]; omega

/-- The first recovered byte is START. -/
theorem spanRaw_getD_zero {mp : Nat} (hmp : 1 ≤ mp) (region : List Byte) :
    (spanRaw mp region).getD 0 0 = START := by
  obtain ⟨k, rfl⟩ : ∃ k, mp = k + 1 := ⟨mp - 1, by omega⟩
  simp [spanRaw]

/-! ## The parse of each shape of window -/

/-- A read of SCRATCH after the fill, as DECODE_NEXT makes them. -/
theorem cellAt_fill {mp : Nat} (hmp : 1 ≤ mp) (e : Nat) (m : Memory) (region : List Byte) {i : Nat}
    (hi : i < (spanRaw mp region).length) :
    cellAt e .scratch (fillScratch mp m region).scratch i = (spanRaw mp region).getD i 0 := by
  rw [(fillScratch_eq hmp m region).1, cellAt_writeList_of_lt _ _ _ _ hi]

/-- The parse from a START in terms of the raw bytes its region gives: rules R166 to R172 of
42_parser.md in one equation. -/
theorem State.parseFrom_eq {s : State} (hmp : 3 ≤ s.cfg.maxPacket) (st : Nat) (second : Option Nat)
    {region : List Byte} (hr : (s.window.take (second.getD s.pending)).drop (st + 1) = region) :
    let raw := spanRaw s.cfg.maxPacket region
    s.parseFrom st second =
      match second with
      | some e =>
        { code := if rawValid raw then .valid else .resync
          cmd := raw.getD 1 0, len := raw.getD 2 0, k := raw.length
          forced := true, ovf := spanOverflows s.cfg.maxPacket region, recovered := false
          cmdZero := rawCmdZero raw
          scratch := s.scratch.writeList 0 raw
          newTail := (s.tail.toNat + e) % s.cfg.rxCap }
      | none =>
        if rawValid raw then
          { code := .valid, cmd := raw.getD 1 0, len := raw.getD 2 0, k := raw.length
            forced := false, ovf := spanOverflows s.cfg.maxPacket region, recovered := false
            cmdZero := rawCmdZero raw
            scratch := s.scratch.writeList 0 raw
            newTail := s.head.toNat }
        else
          { code := if rawComplete raw then .heldInvalid else .incomplete
            cmd := 0x00, len := 0x00, k := raw.length
            forced := false, ovf := spanOverflows s.cfg.maxPacket region
            recovered := s.snapshotFull
            cmdZero := rawCmdZero raw
            scratch := s.scratch.writeList 0 raw
            newTail :=
              if s.snapshotFull then
                if 0 < st then (s.tail.toNat + st) % s.cfg.rxCap
                else (s.tail.toNat + 1) % s.cfg.rxCap
              else s.tail.toNat } := by
  intro raw
  have hmp1 : 1 ≤ s.cfg.maxPacket := by omega
  obtain ⟨hf1, hf2, hf3⟩ := fillScratch_eq hmp1 s.scratch region
  have hat : ∀ i, i < raw.length →
      cellAt s.epoch .scratch (fillScratch s.cfg.maxPacket s.scratch region).scratch i =
        raw.getD i 0 := fun i hi => cellAt_fill hmp1 _ _ _ hi
  have hraw : spanRaw s.cfg.maxPacket region = raw := rfl
  clear_value raw
  rw [hraw] at hf1 hf2
  have hz : ∀ i, raw.length ≤ i → raw.getD i 0 = 0 := fun i hi => by simp [hi]
  unfold State.parseFrom
  simp only [hr, hf2, hf3]
  generalize (fillScratch s.cfg.maxPacket s.scratch region).scratch = sc at hat hf1 ⊢
  have hcomp : (decide (3 ≤ raw.length) &&
      decide ((cellAt s.epoch .scratch sc 2).toNat + 4 ≤ raw.length)) = rawComplete raw := by
    unfold rawComplete
    by_cases h3 : 3 ≤ raw.length
    · rw [hat 2 (by omega)]
    · simp [h3]
  have hok : (rawComplete raw && checkOk (cellAt s.epoch .scratch sc)
      (cellAt s.epoch .scratch sc 2).toNat) = rawChecks raw := by
    unfold rawChecks
    by_cases hc : rawComplete raw = true
    · have hl := hc
      simp only [rawComplete, Bool.and_eq_true, decide_eq_true_eq] at hl
      rw [hc, Bool.true_and, Bool.true_and, checkOk, hat 2 (by omega), hat _ (by omega)]
      congr 2
      apply List.ext_getElem
      · rw [List.length_map, List.length_range, List.length_take]; omega
      · intro i h1 h2
        rw [List.length_map, List.length_range] at h1
        simp only [List.getElem_map, List.getElem_range, List.getElem_take]
        rw [hat i (by omega)]
        simp [show i < raw.length by omega]
    · simp [hc]
  have hcz : (rawChecks raw && cellAt s.epoch .scratch sc 1 == 0x00) = rawCmdZero raw := by
    unfold rawCmdZero
    by_cases hc : rawChecks raw = true
    · have hl := hc
      simp only [rawChecks, rawComplete, Bool.and_eq_true, decide_eq_true_eq] at hl
      rw [hat 1 (by omega)]
    · simp [hc]
  have hval : (rawChecks raw && !rawCmdZero raw) = rawValid raw := by
    unfold rawValid rawCmdZero
    cases rawChecks raw <;> simp [bne]
  rw [hcomp, hok, hcz, hval]
  cases second with
  | some e =>
    have h1 : (if 2 ≤ raw.length then cellAt s.epoch .scratch sc 1 else 0x00) = raw.getD 1 0 := by
      split
      · exact hat 1 (by omega)
      · exact (hz 1 (by omega)).symm
    have h2 : (if 3 ≤ raw.length then cellAt s.epoch .scratch sc 2 else 0x00) = raw.getD 2 0 := by
      split
      · exact hat 2 (by omega)
      · exact (hz 2 (by omega)).symm
    simp only [h1, h2]
    rw [hf1]
  | none =>
    by_cases hv : rawValid raw = true
    · have hl := hv
      simp only [rawValid, rawChecks, rawComplete, Bool.and_eq_true, decide_eq_true_eq] at hl
      simp only [hv, if_true, hf1]
      rw [← hf1, hat 1 (by omega), hat 2 (by omega), hf1]
    · simp only [hv, hf1, Bool.false_eq_true, if_false]

section
variable {s : State} (h : s.CursorsLegal)
include h

theorem State.CursorsLegal.maxPacket_ge : 128 ≤ s.cfg.maxPacket := h.1.2.1.1

theorem State.CursorsLegal.maxPacket_le : s.cfg.maxPacket ≤ 256 := h.1.2.1.2

end

/-- The parse of a window without START (42_parser.md R163, R172 case 1). -/
theorem State.parse_of_noStart {s : State} (hw : START ∉ s.window) : s.parse = s.parseEmpty := by
  rw [State.parse, findStart_eq_none (by simpa using hw)]

/-- The parse of a window with one START (42_parser.md R165, R170 to R172). -/
theorem State.parse_of_oneStart {s : State} {pre mid : List Byte}
    (hw : s.window = pre ++ START :: mid) (hp : START ∉ pre) (hm : START ∉ mid) :
    s.parse = s.parseFrom pre.length none ∧
      (s.window.take s.pending).drop (pre.length + 1) = mid := by
  have h1 : findStart s.window 0 = some pre.length := findStart_eq_some (by simpa using hw) hp
  have hd : s.window.drop (pre.length + 1) = mid := by
    rw [hw]
    simp [List.drop_append, List.drop_eq_nil_of_le]
  have h2 : findStart s.window (pre.length + 1) = none := findStart_eq_none (by rw [hd]; exact hm)
  refine ⟨by rw [State.parse, h1]; simp only [h2], ?_⟩
  rw [List.take_of_length_le (by simp), hd]

/-- The parse of a window with a second START (42_parser.md R165, R169). -/
theorem State.parse_of_twoStarts {s : State} {pre mid post : List Byte}
    (hw : s.window = pre ++ START :: mid ++ START :: post) (hp : START ∉ pre) (hm : START ∉ mid) :
    s.parse = s.parseFrom pre.length (some (pre.length + 1 + mid.length)) ∧
      (s.window.take (pre.length + 1 + mid.length)).drop (pre.length + 1) = mid := by
  have h1 : findStart s.window 0 = some pre.length :=
    findStart_eq_some (rest := mid ++ START :: post) (by simpa using hw) hp
  have hd : s.window.drop (pre.length + 1) = mid ++ START :: post := by
    rw [hw]
    simp [List.drop_append, List.drop_eq_nil_of_le]
  have h2 : findStart s.window (pre.length + 1) = some (mid.length + (pre.length + 1)) :=
    findStart_eq_some hd hm
  refine ⟨?_, ?_⟩
  · rw [State.parse, h1]
    simp only [h2]
    congr 2; omega
  · rw [List.drop_take, hd]
    simp

/-- What every parse keeps: EMPTY leaves SCRATCH alone, any other code writes 1 to MAX_PACKET raw bytes
from entry 0, START first, and the new TAIL is a cursor value (42_parser.md R163, R166, R173). -/
theorem State.parse_bounds {s : State} (h : s.CursorsLegal) :
    ((s.parse.k = 0 ∧ s.parse.scratch = s.scratch ∧ s.parse.code = .empty) ∨
      ∃ raw, 1 ≤ raw.length ∧ raw.length ≤ s.cfg.maxPacket ∧ raw.getD 0 0 = START ∧
        s.parse.k = raw.length ∧ s.parse.scratch = s.scratch.writeList 0 raw ∧
        s.parse.code ≠ .empty) ∧
    s.parse.newTail < s.cfg.rxCap := by
  have hcap := h.cap_pos
  have hmp := h.maxPacket_ge
  rcases window_shapes s.window with hw | ⟨pre, mid, hw, hp, hm⟩ | ⟨pre, mid, post, hw, hp, hm⟩
  · rw [State.parse_of_noStart hw]
    refine ⟨.inl ⟨rfl, rfl, rfl⟩, ?_⟩
    simp only [State.parseEmpty]
    split
    · exact h.2.1
    · exact h.2.2
  · obtain ⟨h1, h2⟩ := State.parse_of_oneStart hw hp hm
    rw [h1, State.parseFrom_eq (by omega) _ none h2]
    have hl := length_spanRaw_le s.cfg.maxPacket mid
    have hl1 := length_spanRaw_pos (mp := s.cfg.maxPacket) (by omega) mid
    have hz := spanRaw_getD_zero (mp := s.cfg.maxPacket) (by omega) mid
    simp only
    split
    · exact ⟨.inr ⟨_, hl1, hl, hz, rfl, rfl, by simp⟩, h.2.1⟩
    · refine ⟨.inr ⟨_, hl1, hl, hz, rfl, rfl, by split <;> simp⟩, ?_⟩
      simp only
      split
      · split <;> exact Nat.mod_lt _ hcap
      · exact h.2.2
  · obtain ⟨h1, h2⟩ := State.parse_of_twoStarts hw hp hm
    rw [h1, State.parseFrom_eq (by omega) _ (some _) h2]
    exact ⟨.inr ⟨_, length_spanRaw_pos (by omega) mid, length_spanRaw_le _ mid,
      spanRaw_getD_zero (by omega) mid, rfl, rfl, by simp only; split <;> simp⟩,
      Nat.mod_lt _ hcap⟩

/-- A window of either kind with a START in it ends its region before what follows. -/
theorem endsRegion_iff (post : List Byte) :
    endsRegion post = true ↔ post = [] ∨ ∃ rest, post = START :: rest := by
  cases post with
  | nil => simp [endsRegion]
  | cons b bs => simp [endsRegion]

end Sys2Proof.Machine
end

