-- ==== Sys2Proof/Laws/Exec.lean ====
section
/-! SUPPORT. One lemma per shared operation that says what it can do, and one inversion lemma per
request operation. -/

namespace Sys2Proof.Machine

/-! ## Answering -/

theorem OnlyResponds.respond (s : State) (r0 r1 r2 : Byte) (r3 : Word9) :
    OnlyResponds s (s.respond r0 r1 r2 r3) :=
  ⟨⟨rfl, rfl⟩, ⟨rfl, rfl, rfl, rfl⟩, rfl, ⟨rfl, rfl, rfl, rfl, rfl, rfl, rfl⟩,
    fun sp i => State.respond_readByte s r0 r1 r2 r3 sp i⟩

theorem Raised.raise (e : Status) (s : State) : Raised e s (s.raise e) :=
  ⟨rfl, ⟨rfl, rfl⟩, ⟨rfl, rfl, rfl, rfl⟩, rfl, ⟨rfl, rfl, rfl, rfl, rfl, rfl, rfl⟩,
    fun sp i => State.raise_readByte s e sp i⟩

/-- A state that differs in its response alone. -/
theorem OnlyResponds.of_response (s : State) (r : Option Response) :
    OnlyResponds s { s with response := r } :=
  ⟨⟨rfl, rfl⟩, ⟨rfl, rfl, rfl, rfl⟩, rfl, ⟨rfl, rfl, rfl, rfl, rfl, rfl, rfl⟩,
    fun sp i => by cases sp <;> rfl⟩

theorem OnlyResponds.trans {s t u : State} (h : OnlyResponds s t) (h' : OnlyResponds t u) :
    OnlyResponds s u := by
  obtain ⟨⟨a1, a2⟩, ⟨b1, b2, b3, b4⟩, c, ⟨d1, d2, d3, d4, d5, d6, d7⟩, e⟩ := h
  obtain ⟨⟨a1', a2'⟩, ⟨b1', b2', b3', b4'⟩, c', ⟨d1', d2', d3', d4', d5', d6', d7'⟩, e'⟩ := h'
  refine ⟨⟨a1'.trans a1, a2'.trans a2⟩, ⟨b1'.trans b1, b2'.trans b2, b3'.trans b3, b4'.trans b4⟩,
    c'.trans c, ⟨d1'.trans d1, d2'.trans d2, d3'.trans d3, d4'.trans d4, d5'.trans d5, d6'.trans d6,
    d7'.trans d7⟩, fun sp i => (e' sp i).trans (e sp i)⟩

/-- A decoder step answers and changes nothing else (40_codec.md R103). -/
theorem OnlyResponds.decStep (s : State) (w : Byte) (e : Bool) : OnlyResponds s (s.decStep w e) :=
  OnlyResponds.respond _ _ _ _ _

/-- A pair's two decoder steps change nothing but the response. -/
theorem OnlyResponds.decPair (s : State) (x : Byte) : OnlyResponds s (s.decPair x) :=
  (OnlyResponds.decStep s _ _).trans (OnlyResponds.decStep _ _ _)

/-! ## Operand checks (60_exceptions.md R231) -/

theorem State.peekOk_iff (s : State) (o : Byte) : s.peekOk o = true ↔ o.toNat < s.pending := by
  simp [State.peekOk]

theorem State.cursorOk_iff (s : State) (n : Byte) :
    s.cursorOk n = true ↔ n.toNat < s.cfg.rxCap := by simp [State.cursorOk]

theorem State.advanceOk_iff (s : State) (n : Byte) :
    s.advanceOk n = true ↔ modSub n.toNat s.tail.toNat s.cfg.rxCap ≤ s.pending := by
  simp [State.advanceOk]

theorem State.scratchOk_iff (s : State) (i : Byte) :
    s.scratchOk i = true ↔ i.toNat < s.cfg.maxPacket := by simp [State.scratchOk]

theorem State.txDataOk_iff (s : State) (i : Byte) :
    s.txDataOk i = true ↔ i.toNat < s.cfg.maxData := by simp [State.txDataOk]

theorem State.lenOk_iff (s : State) (n : Byte) :
    s.lenOk n = true ↔ n.toNat ≤ s.cfg.maxData := by simp [State.lenOk]

theorem State.txReadOk_iff (s : State) (i : Word9) :
    s.txReadOk i = true ↔ i.toNat < s.txLen.toNat := by simp [State.txReadOk]

/-! ## Lengths of frames -/

theorem length_stuff_pos (b : Byte) : 1 ≤ (stuff b).length := by unfold stuff; split <;> simp

theorem length_stuff_le (b : Byte) : (stuff b).length ≤ 2 := by unfold stuff; split <;> simp

theorem length_stuffSeq_ge (seq : List Byte) : seq.length ≤ (stuffSeq seq).length := by
  induction seq with
  | nil => simp
  | cons b bs ih => have := length_stuff_pos b; simp; omega

theorem length_stuffSeq_le (seq : List Byte) : (stuffSeq seq).length ≤ 2 * seq.length := by
  induction seq with
  | nil => simp
  | cons b bs ih => have := length_stuff_le b; simp; omega

/-! ## The encoder -/

/-- The state after an accepted ENCODE, entry by entry (43_encoder.md R201). -/
theorem Encodes.encodePacket {s : State} (hc : s.cfg.Legal) {cmd len : Byte} (delta : Byte)
    (hl : len.toNat ≤ s.cfg.maxData) : Encodes cmd len delta s (s.encodePacket cmd len delta) := by
  have hw : (START :: stuffSeq ([cmd, len] ++ s.readSlice .txData 0 len.toNat ++
      [chk ([START, cmd, len] ++ s.readSlice .txData 0 len.toNat) + delta])).length < 512 := by
    have h1 := length_stuffSeq_le ([cmd, len] ++ s.readSlice .txData 0 len.toNat ++
      [chk ([START, cmd, len] ++ s.readSlice .txData 0 len.toNat) + delta])
    have h2 := hc.2.1.2
    simp only [List.length_append, State.length_readSlice, List.length_cons, List.length_nil] at h1 ⊢
    unfold Config.maxData at hl
    omega
  unfold State.encodePacket packetChk frame
  refine ⟨fun j hj => ?_, fun j hj => ?_, ?_, rfl, ⟨rfl, rfl⟩, ⟨rfl, rfl, rfl, rfl⟩,
    ⟨rfl, rfl, rfl, rfl, rfl, rfl, rfl⟩, fun i => rfl, fun i => rfl, fun i => rfl⟩
  · rw [State.respond_readByte, State.readByte_txWire, State.writeFrame_txWire]
    exact cellAt_writeList_of_lt _ _ _ _ hj
  · rw [State.respond_readByte, State.readByte_txWire, State.writeFrame_txWire]
    exact cellAt_writeList_of_ge _ _ _ _ hj
  · rw [State.respond_txLen, State.writeFrame_txLen, BitVec.toNat_ofNat]
    exact Nat.mod_eq_of_lt hw

/-- What ENCODE and the command rows can do (43_encoder.md R201, 60_exceptions.md R232). -/
theorem State.encodeChecked_cases (s : State) (cmd len delta : Byte) :
    (cmd = 0x00 ∧ s.encodeChecked cmd len delta = s.raise .encCmd) ∨
    (cmd ≠ 0x00 ∧ s.cfg.maxData < len.toNat ∧ s.encodeChecked cmd len delta = s.raise .encLen) ∨
    (cmd ≠ 0x00 ∧ len.toNat ≤ s.cfg.maxData ∧
      s.encodeChecked cmd len delta = s.encodePacket cmd len delta) := by
  unfold State.encodeChecked
  by_cases h : cmd = 0x00
  · exact Or.inl ⟨h, by simp [h]⟩
  · by_cases hl : len.toNat ≤ s.cfg.maxData
    · exact Or.inr (Or.inr ⟨h, hl, by simp only [if_neg h]; simp [State.lenOk, hl]⟩)
    · exact Or.inr (Or.inl ⟨h, by omega, by simp only [if_neg h]; simp [State.lenOk, hl]⟩)

/-! ## The request operations -/

section
variable {s t : State}

theorem exec_rxWrite_cases {b : Byte} (h : exec (.rxWrite b) s = .next t) :
    (s.full = true ∧ t = s.raise .full) ∨
    (s.full = false ∧ ∃ n, t = ((s.writeRx s.head.toNat b).setHead
      ((s.head.toNat + 1) % s.cfg.rxCap)).respond 0 0 0 n) := by
  simp only [exec, execRxWrite] at h
  split at h
  · rename_i hf
    exact Or.inl ⟨hf, by cases h; rfl⟩
  · rename_i hf
    cases h
    exact Or.inr ⟨by simpa using hf, _, rfl⟩

theorem exec_rxPeek_cases {o : Byte} (h : exec (.rxPeek o) s = .next t) :
    (o.toNat < s.pending ∧ t = s.respond (s.readByte .rxbuf (s.windowIndex o.toNat)) 0 0 0) ∨
    (s.pending ≤ o.toNat ∧ t = s.raise .range) := by
  simp only [exec, execRxPeek, State.peekOk, decide_eq_true_eq] at h
  split at h
  · exact Or.inl ⟨‹_›, by cases h; rfl⟩
  · exact Or.inr ⟨by omega, by cases h; rfl⟩

theorem exec_rxAdvance_cases {n : Byte} (h : exec (.rxAdvance n) s = .next t) :
    ((s.cfg.rxCap ≤ n.toNat ∨ s.pending < modSub n.toNat s.tail.toNat s.cfg.rxCap) ∧
      t = s.raise .range) ∨
    (n.toNat < s.cfg.rxCap ∧ modSub n.toNat s.tail.toNat s.cfg.rxCap ≤ s.pending ∧
      t = (s.setTail n.toNat).respond 0 0 0 (BitVec.ofNat 9 (s.setTail n.toNat).pending)) := by
  simp only [exec, execRxAdvance, State.cursorOk, State.advanceOk, Bool.not_eq_true',
    decide_eq_false_iff_not] at h
  split at h
  · exact Or.inl ⟨Or.inl (by omega), by cases h; rfl⟩
  · split at h
    · exact Or.inl ⟨Or.inr (by omega), by cases h; rfl⟩
    · exact Or.inr ⟨by omega, by omega, by cases h; rfl⟩

theorem exec_scratchRead_cases {j : Byte} (h : exec (.scratchRead j) s = .next t) :
    (j.toNat < s.cfg.maxPacket ∧ t = s.respond (s.readByte .scratch j.toNat) 0 0 0) ∨
    (s.cfg.maxPacket ≤ j.toNat ∧ t = s.raise .range) := by
  simp only [exec, execScratchRead, State.scratchOk, decide_eq_true_eq] at h
  split at h
  · exact Or.inl ⟨‹_›, by cases h; rfl⟩
  · exact Or.inr ⟨by omega, by cases h; rfl⟩

theorem exec_txLoad_cases {j b : Byte} (h : exec (.txLoad j b) s = .next t) :
    (j.toNat < s.cfg.maxData ∧ t = (s.writeTxData j.toNat b).respond 0 0 0 0) ∨
    (s.cfg.maxData ≤ j.toNat ∧ t = s.raise .range) := by
  simp only [exec, execTxLoad, State.txDataOk, decide_eq_true_eq] at h
  split at h
  · exact Or.inl ⟨‹_›, by cases h; rfl⟩
  · exact Or.inr ⟨by omega, by cases h; rfl⟩

theorem exec_txRead_cases {j : Word9} (h : exec (.txRead j) s = .next t) :
    (j.toNat < s.txLen.toNat ∧ t = s.respond (s.readByte .txWire j.toNat) 0 0 0) ∨
    (s.txLen.toNat ≤ j.toNat ∧ t = s.raise .range) := by
  simp only [exec, execTxRead, State.txReadOk, decide_eq_true_eq] at h
  split at h
  · exact Or.inl ⟨‹_›, by cases h; rfl⟩
  · exact Or.inr ⟨by omega, by cases h; rfl⟩

theorem exec_decodeNext_eq (s : State) :
    exec .decodeNext s = .next ((s.commitParse s.parse).respond s.parse.cmd s.parse.len
      s.parse.status (BitVec.ofNat 9 s.parse.k)) := rfl

/-- The encoder rows are one operation. -/
theorem exec_of_runsEncoder {i : Instr} (h : runsEncoder i = true) (s : State) :
    ∃ cmd len delta, exec i s = .next (s.encodeChecked cmd len delta) := by
  cases i <;> first | (cases h; done) | exact ⟨_, _, _, rfl⟩

/-- The five kinds of row that can change more than the response. -/
theorem exec_classes {i : Instr} (h : exec i s = .next t) :
    (∃ r, t = { s with response := some r }) ∨ (∃ b, i = .rxWrite b) ∨ (∃ n, i = .rxAdvance n) ∨
      i = .decodeNext ∨ (∃ j b, i = .txLoad j b) ∨ runsEncoder i = true := by
  cases i
  case rxPeek o => rcases exec_rxPeek_cases h with ⟨_, rfl⟩ | ⟨_, rfl⟩ <;> exact .inl ⟨_, rfl⟩
  case scratchRead j =>
    rcases exec_scratchRead_cases h with ⟨_, rfl⟩ | ⟨_, rfl⟩ <;> exact .inl ⟨_, rfl⟩
  case txRead j => rcases exec_txRead_cases h with ⟨_, rfl⟩ | ⟨_, rfl⟩ <;> exact .inl ⟨_, rfl⟩
  all_goals first
    | (right; simp; done)
    | exact .inr (.inr (.inr (.inr (.inr rfl))))
    | (cases h; exact .inl ⟨_, rfl⟩)

end

/-! ## Flags -/

/-- The fields of a packed PKT_STATUS are what was packed (10_state.md R31). -/
theorem fields_packStatus (c : PktCode) (f o r z : Bool) :
    statusCode (packStatus c f o r z) = c.code ∧ statusForced (packStatus c f o r z) = f ∧
    statusOverflow (packStatus c f o r z) = o ∧ statusRecovered (packStatus c f o r z) = r ∧
    statusCmdZero (packStatus c f o r z) = z ∧ statusReserved (packStatus c f o r z) = false := by
  revert f o r z
  cases c <;> decide

/-- What a DECODE_NEXT reports, from its parse (42_parser.md R173). -/
theorem Reports.commit (s : State) (p : Parse) :
    Reports ((s.commitParse p).respond p.cmd p.len p.status (BitVec.ofNat 9 p.k)) p.code p.cmd p.len
      p.k p.forced p.ovf p.recovered p.cmdZero := by
  obtain ⟨h1, h2, h3, h4, h5, h6⟩ := fields_packStatus p.code p.forced p.ovf p.recovered p.cmdZero
  exact ⟨rfl, rfl, rfl, h1, h2, h3, h4, h5, h6, rfl⟩

/-- What a DECODE_NEXT leaves unchanged (10_state.md R41). -/
theorem KeepsBesidesParser.commit (s : State) (p : Parse) (a b c : Byte) (d : Word9) :
    KeepsBesidesParser s ((s.commitParse p).respond a b c d) :=
  ⟨rfl, rfl, ⟨rfl, rfl, rfl, rfl, rfl, rfl, rfl⟩, fun _ => rfl, fun _ => rfl, fun _ => rfl⟩

/-- SCRATCH after a parse that wrote `raw` (42_parser.md R166). -/
theorem ScratchHolds.commit (s : State) (p : Parse) (raw : List Byte) (a b c : Byte) (d : Word9)
    (hp : p.scratch = s.scratch.writeList 0 raw) :
    ScratchHolds raw s ((s.commitParse p).respond a b c d) := by
  refine ⟨fun i hi => ?_, fun i hi => ?_⟩
  · rw [State.respond_readByte, State.readByte_scratch, State.commitParse_scratch, hp]
    exact cellAt_writeList_of_lt _ _ _ _ hi
  · rw [State.respond_readByte, State.readByte_scratch, State.commitParse_scratch, hp]
    exact cellAt_writeList_of_ge _ _ _ _ hi

end Sys2Proof.Machine
end

