-- ==== Sys2Proof/Laws/PerInstr.lean ====
section
/-! SUPPORT. The per-instruction family RoundTrip: decoding the encoding of a well-formed instruction
gives it back. -/

namespace Sys2Proof.Laws

/-- Decoding the encoding of a well-formed instruction gives it back, with nothing left over. -/
def RoundTrip.Statement (i : Instr) : Prop := i.wf = true → decode (encode i) = (i, [])

/-! ## The fields of a request word -/

/-- A request word bit by bit (30_encoding.md R78). -/
theorem getLsbD_requestWord (op a b c : Byte) (i : Nat) : (requestWord op a b c).getLsbD i =
    if i < 8 then op.getLsbD i else if i < 16 then a.getLsbD (i - 8)
    else if i < 24 then b.getLsbD (i - 16) else c.getLsbD (i - 24) := by
  have h : (requestWord op a b c).getLsbD i =
      ((c ++ b ++ a ++ op : BitVec (8 + 8 + 8 + 8))).getLsbD i := rfl
  rw [h, BitVec.getLsbD_append, BitVec.getLsbD_append, BitVec.getLsbD_append]
  grind

@[simp] theorem fieldOp_requestWord (op a b c : Byte) : fieldOp (requestWord op a b c) = op := by
  apply BitVec.eq_of_getLsbD_eq
  intro i hi
  rw [fieldOp, BitVec.getLsbD_extractLsb', getLsbD_requestWord]
  grind

@[simp] theorem fieldA_requestWord (op a b c : Byte) : fieldA (requestWord op a b c) = a := by
  apply BitVec.eq_of_getLsbD_eq
  intro i hi
  rw [fieldA, BitVec.getLsbD_extractLsb', getLsbD_requestWord]
  grind

@[simp] theorem fieldB_requestWord (op a b c : Byte) : fieldB (requestWord op a b c) = b := by
  apply BitVec.eq_of_getLsbD_eq
  intro i hi
  rw [fieldB, BitVec.getLsbD_extractLsb', getLsbD_requestWord]
  grind

@[simp] theorem fieldC_requestWord (op a b c : Byte) : fieldC (requestWord op a b c) = c := by
  apply BitVec.eq_of_getLsbD_eq
  intro i hi
  rw [fieldC, BitVec.getLsbD_extractLsb', getLsbD_requestWord]
  grind

/-- B[0] is bit 0 of B. -/
theorem fieldB0_eq (w : RequestWord) : fieldB0 w = (fieldB w).getLsbD 0 := by
  simp [fieldB0, fieldB]

@[simp] theorem flagByte_getLsbD_zero (f : Bool) : (flagByte f).getLsbD 0 = f := by
  cases f <;> rfl

/-- A 9-bit index is its bit 8 and its low byte. -/
theorem index9_eq (i : Word9) :
    (BitVec.ofBool (i.getLsbD 8) ++ i.extractLsb' 0 8 : Word9) = i := by
  apply BitVec.eq_of_getLsbD_eq
  intro j hj
  have h : (BitVec.ofBool (i.getLsbD 8) ++ i.extractLsb' 0 8 : Word9).getLsbD j =
      ((BitVec.ofBool (i.getLsbD 8) ++ i.extractLsb' 0 8 : BitVec (1 + 8))).getLsbD j := rfl
  rw [h, BitVec.getLsbD_append, BitVec.getLsbD_extractLsb']
  split
  · simp [*]
  · obtain rfl : j = 8 := by omega
    simp

/-! ## One lemma per instruction -/

theorem RoundTrip.encByte (raw : Byte) : RoundTrip.Statement (.encByte raw) := fun _ => by
  simp [Sys2Proof.decode, Sys2Proof.encode, decodeRequest]

theorem RoundTrip.decByte (wire : Byte) (escIn : Bool) : RoundTrip.Statement (.decByte wire escIn) := fun _ => by simp [Sys2Proof.decode, Sys2Proof.encode, decodeRequest, fieldB0_eq, -BitVec.getLsbD_eq_getElem]

theorem RoundTrip.rxWrite (byte : Byte) : RoundTrip.Statement (.rxWrite byte) := fun _ => by
  simp [Sys2Proof.decode, Sys2Proof.encode, decodeRequest]

theorem RoundTrip.rxPending : RoundTrip.Statement .rxPending := fun _ => by
  simp [Sys2Proof.decode, Sys2Proof.encode, decodeRequest]

theorem RoundTrip.rxPeek (offset : Byte) : RoundTrip.Statement (.rxPeek offset) := fun _ => by
  simp [Sys2Proof.decode, Sys2Proof.encode, decodeRequest]

theorem RoundTrip.rxReadAt (index : Byte) : RoundTrip.Statement (.rxReadAt index) := fun _ => by
  simp [Sys2Proof.decode, Sys2Proof.encode, decodeRequest]

theorem RoundTrip.rxAdvance (newTail : Byte) : RoundTrip.Statement (.rxAdvance newTail) := fun _ => by
  simp [Sys2Proof.decode, Sys2Proof.encode, decodeRequest]

theorem RoundTrip.decodeNext : RoundTrip.Statement .decodeNext := fun _ => by
  simp [Sys2Proof.decode, Sys2Proof.encode, decodeRequest]

theorem RoundTrip.scratchRead (i : Byte) : RoundTrip.Statement (.scratchRead i) := fun _ => by
  simp [Sys2Proof.decode, Sys2Proof.encode, decodeRequest]

theorem RoundTrip.txLoad (i : Byte) (byte : Byte) : RoundTrip.Statement (.txLoad i byte) := fun _ => by
  simp [Sys2Proof.decode, Sys2Proof.encode, decodeRequest]

theorem RoundTrip.encode (cmd : Byte) (len : Byte) (delta : Byte) : RoundTrip.Statement (.encode cmd len delta) := fun _ => by
  simp [Sys2Proof.decode, Sys2Proof.encode, decodeRequest]

theorem RoundTrip.txRead (i : Word9) : RoundTrip.Statement (.txRead i) := fun _ => by
  simp [Sys2Proof.decode, Sys2Proof.encode, decodeRequest, fieldIndex9, fieldB0_eq, index9_eq,
    -BitVec.getLsbD_eq_getElem]

theorem RoundTrip.illegal (op : Byte) : RoundTrip.Statement (.illegal op) := by
  intro h
  have key : ∀ n : Nat, op.toNat = n → n = 0 ∨ 0x0D ≤ n := fun n hn => by
    simp only [Instr.wf, illegalOp, Bool.or_eq_true, beq_iff_eq, decide_eq_true_eq] at h
    rcases h with rfl | h
    · exact Or.inl hn.symm
    · exact Or.inr (hn ▸ h)
  have h1 : decodeRequest (requestWord op 0 0 0) = .illegal op := by
    unfold decodeRequest
    rw [fieldOp_requestWord]
    split <;> first | rfl | (rename_i hn; have := key _ hn; omega)
  show (decodeRequest (requestWord op 0 0 0), []) = _
  rw [h1]

theorem RoundTrip.start : RoundTrip.Statement .start := fun _ => rfl

theorem RoundTrip.escape : RoundTrip.Statement .escape := fun _ => rfl

theorem RoundTrip.literal (value : Byte) : RoundTrip.Statement (.literal value) := by
  intro h
  simp only [Instr.wf, Bool.and_eq_true, bne_iff_ne, ne_eq] at h
  simp only [Sys2Proof.decode, Sys2Proof.encode, decodeWire8, if_neg h.1, if_neg h.2]

theorem RoundTrip.escStart : RoundTrip.Statement .escStart := fun _ => rfl

theorem RoundTrip.escEscape : RoundTrip.Statement .escEscape := fun _ => rfl

theorem RoundTrip.escPair (x : Byte) : RoundTrip.Statement (.escPair x) := by
  intro h
  simp only [Instr.wf, Bool.and_eq_true, bne_iff_ne, ne_eq] at h
  simp only [Sys2Proof.decode, Sys2Proof.encode, decodeWire16, if_neg h.1.1, if_neg h.1.2, if_neg h.2, if_true]

theorem RoundTrip.cmdReservedZero (len : Byte) : RoundTrip.Statement (.cmdReservedZero len) := fun _ => rfl

theorem RoundTrip.cmdScanReport (len : Byte) : RoundTrip.Statement (.cmdScanReport len) := fun _ => rfl

theorem RoundTrip.cmdSetLed (len : Byte) : RoundTrip.Statement (.cmdSetLed len) := fun _ => rfl

theorem RoundTrip.cmdAutoscanOn (len : Byte) : RoundTrip.Statement (.cmdAutoscanOn len) := fun _ => rfl

theorem RoundTrip.cmdAutoscanOff (len : Byte) : RoundTrip.Statement (.cmdAutoscanOff len) := fun _ => rfl

theorem RoundTrip.cmdVendor06 (len : Byte) : RoundTrip.Statement (.cmdVendor06 len) := fun _ => rfl

theorem RoundTrip.cmdVendor07 (len : Byte) : RoundTrip.Statement (.cmdVendor07 len) := fun _ => rfl

theorem RoundTrip.cmdVendor09 (len : Byte) : RoundTrip.Statement (.cmdVendor09 len) := fun _ => rfl

theorem RoundTrip.cmdVendor0A (len : Byte) : RoundTrip.Statement (.cmdVendor0A len) := fun _ => rfl

theorem RoundTrip.cmdVendor0B (len : Byte) : RoundTrip.Statement (.cmdVendor0B len) := fun _ => rfl

theorem RoundTrip.cmdVendor0C (len : Byte) : RoundTrip.Statement (.cmdVendor0C len) := fun _ => rfl

theorem RoundTrip.cmdDetect (len : Byte) : RoundTrip.Statement (.cmdDetect len) := fun _ => rfl

theorem RoundTrip.cmdException (len : Byte) : RoundTrip.Statement (.cmdException len) := fun _ => rfl

theorem RoundTrip.cmdBoardInfo (len : Byte) : RoundTrip.Statement (.cmdBoardInfo len) := fun _ => rfl

/-- A command without a row of its own is none of the named values. -/
theorem toNat_ne_of_notNamed : ∀ c : Byte, namedCommands.contains c = false →
    ∀ n ∈ [0x00, 0x01, 0x02, 0x03, 0x04, 0x06, 0x07, 0x09, 0x0A, 0x0B, 0x0C, 0x10, 0xEE, 0xF0],
      c.toNat ≠ n := by decide

theorem RoundTrip.cmdOther (cmd : Byte) (len : Byte) : RoundTrip.Statement (.cmdOther cmd len) := by
  intro h
  have hc : namedCommands.contains cmd = false := by simpa [Instr.wf] using h
  show (decodeCommand cmd len, []) = _
  unfold decodeCommand
  split <;> first
    | rfl
    | exact absurd ‹_› (toNat_ne_of_notNamed cmd hc _ (by decide))

end Sys2Proof.Laws
end

