-- ==== Sys2Proof/Laws/Requester.lean ====
section
/-! SUPPORT. What the requester's pseudo-operations do, one lemma each. -/

namespace Sys2Proof.Machine

/-- Requests one after another, split in two. -/
theorem execAll_append (as bs : List Instr) {s t : State} (h : execAll as s = .next t) :
    execAll (as ++ bs) s = execAll bs t := by
  induction as generalizing s with
  | nil => cases h; rfl
  | cons a as ih =>
    simp only [List.cons_append, execAll] at h ⊢
    split at h
    · exact ih h
    · cases h
    · cases h

/-- A TX_LOAD below MAX_DATA stores its byte (43_encoder.md R200). -/
theorem exec_txLoad_of_lt {s : State} {i : Byte} (b : Byte) (h : i.toNat < s.cfg.maxData) :
    exec (.txLoad i b) s = .next ((s.writeTxData i.toNat b).respond 0 0 0 0) :=
  if_pos ((State.txDataOk_iff s i).mpr h)

/-- The TX_LOADs of a payload that fits store its bytes in order and change nothing else but the
response (30_encoding.md R87). -/
theorem execAll_loadPayload (data : List Byte) (i : Nat) {s : State}
    (h8 : i + data.length ≤ 256) (h : i + data.length ≤ s.cfg.maxData) :
    ∃ t r, execAll (loadPayload i data) s = .next t ∧
      t = { s with txData := s.txData.writeList i data, response := r } := by
  induction data generalizing i s with
  | nil => exact ⟨s, s.response, rfl, rfl⟩
  | cons d ds ih =>
    simp only [List.length_cons] at h8 h
    have hi : (BitVec.ofNat 8 i).toNat = i := by simp; omega
    obtain ⟨t, r, ht, he⟩ := ih (i + 1) (s := (s.writeTxData i d).respond 0 0 0 0)
      (by omega) (by rw [State.respond_cfg, State.writeTxData_cfg]; omega)
    refine ⟨t, r, ?_, he⟩
    rw [loadPayload, execAll, exec_txLoad_of_lt d (by omega), hi]
    exact ht

/-- A TX_READ below TX_LEN answers that entry and changes nothing else (43_encoder.md R204). -/
theorem exec_txRead_of_lt {s : State} {i : Word9} (h : i.toNat < s.txLen.toNat) :
    exec (.txRead i) s = .next (s.respond (s.readByte .txWire i.toNat) 0 0 0) :=
  if_pos ((State.txReadOk_iff s i).mpr h)

/-- TX_READs of entries below TX_LEN answer that slice of TXWIRE and change nothing but the response
(30_encoding.md R87). -/
theorem readFrame_eq (i n : Nat) {s : State} (h : i + n ≤ s.txLen.toNat) :
    ∃ t, readFrame i n s = some (s.readSlice .txWire i n, t) ∧ OnlyResponds s t := by
  induction n generalizing i s with
  | zero => exact ⟨s, rfl, OnlyResponds.of_response s s.response⟩
  | succ n ih =>
    have hlt := s.txLen.isLt
    have hi : (BitVec.ofNat 9 i).toNat = i := by simp; omega
    obtain ⟨t, ht, ho⟩ := ih (i + 1) (s := s.respond (s.readByte .txWire i) 0 0 0)
      (by rw [State.respond_txLen]; omega)
    refine ⟨t, ?_, (OnlyResponds.respond s _ _ _ _).trans ho⟩
    rw [readFrame, exec_txRead_of_lt (by omega), hi]
    simp only [ht, Option.map_some]
    congr 2
    simp only [State.readSlice, List.range_succ_eq_map, List.map_cons, List.map_map]
    congr 1
    refine List.map_congr_left fun j _ => ?_
    simp [Nat.add_comm 1, Nat.add_assoc]

end Sys2Proof.Machine
end

