-- ==== Sys2Proof/Tests/Slice0.lean ====
section
/-! SUPPORT. The model's own tests. Expected values are those of 95_test_vectors.md and
30_encoding.md, or hand computations from the rules named; the `test_meets_` theorems show that the
hypotheses of the statements can be met, at the boundary values of each clause. -/

open Sys2Proof Sys2Proof.Machine

namespace Sys2Proof.Tests

/-- The reset state of a build with MAX_PACKET = 128, the builds of 95_test_vectors.md. -/
def fresh (cap : Nat) : State := State.resetOf { rxCap := cap, maxPacket := 128, ports := 1 } 0

/-- The same, both cursors at `start`, after RX_WRITE of each byte. -/
def received (cap start : Nat) (bs : List Byte) : State :=
  (rxWriteN bs { fresh cap with head := BitVec.ofNat 8 start, tail := BitVec.ofNat 8 start }).2

/-- A payload staged in TXDATA from entry 0 on. -/
def staged (s : State) (data : List Byte) : State := { s with txData := s.txData.writeList 0 data }

/-- The state a meaning goes on with. -/
def after (i : Instr) (s : State) : State :=
  match exec i s with
  | .next t => t
  | .fault _ => s
  | .refused _ => s

/-- The response fields of the next state: status, r0, r1, r2, r3. -/
def answer (i : Instr) (s : State) : Option (List Nat) :=
  (after i s).response.map
    (fun r => [r.status.toNat, r.r0.toNat, r.r1.toNat, r.r2.toNat, r.r3.toNat])

/-! ## WellFormed refuses -/

theorem test_wf_refuses_illegal_naming_an_operation :
    (Instr.illegal 0x05).wf = false ∧ (Instr.illegal 0x01).wf = false ∧
      (Instr.illegal 0x0C).wf = false := by decide
theorem test_wf_refuses_literal_start : (Instr.literal 0xFF).wf = false := by decide
theorem test_wf_refuses_literal_escape : (Instr.literal 0xFD).wf = false := by decide
theorem test_wf_refuses_canonical_pairs :
    (Instr.escPair 0xFE).wf = false ∧ (Instr.escPair 0xFC).wf = false := by decide
theorem test_wf_refuses_escape_before_start : (Instr.escPair 0xFF).wf = false := by decide
theorem test_wf_refuses_named_command_as_other :
    (Instr.cmdOther 0x01 0).wf = false ∧ (Instr.cmdOther 0x00 0).wf = false := by decide

/-! ## Words written out from the encodings (30_encoding.md R79, R80, R86; 95_test_vectors.md) -/

theorem test_decode_encByte : decodeRequest 0x0000FF01 = .encByte 0xFF := by decide
theorem test_decode_decByte : decodeRequest 0x0001FE02 = .decByte 0xFE true := by decide
theorem test_decode_rxWrite : decodeRequest 0x00004103 = .rxWrite 0x41 := by decide
theorem test_decode_rxPending_ignores_operands :
    decodeRequest 0x00000004 = .rxPending ∧ decodeRequest 0xFFFFFF04 = .rxPending := by decide
theorem test_decode_rxPeek : decodeRequest 0x00000205 = .rxPeek 2 := by decide
theorem test_decode_rxReadAt : decodeRequest 0x00001106 = .rxReadAt 17 := by decide
theorem test_decode_rxAdvance : decodeRequest 0x00000107 = .rxAdvance 1 := by decide
theorem test_decode_decodeNext : decodeRequest 0x00000008 = .decodeNext := by decide
theorem test_decode_scratchRead : decodeRequest 0x00007F09 = .scratchRead 127 := by decide
theorem test_decode_txLoad : decodeRequest 0x9905000A = .txLoad 0 5 := by decide
theorem test_decode_encode : decodeRequest 0x0301010B = .encode 1 1 3 := by decide
theorem test_decode_txRead_uses_nine_bits :
    decodeRequest 0x00012C0C = .txRead 300 ∧ decodeRequest 0x00032C0C = .txRead 300 ∧
      decodeRequest 0x00002C0C = .txRead 44 := by decide
theorem test_decode_illegal : decodeRequest 0x00000000 = .illegal 0x00 ∧
    decodeRequest 0x0000000D = .illegal 0x0D ∧ decodeRequest 0x000000FF = .illegal 0xFF := by decide
theorem test_decode_producer_port : decodeProducer 0x00000008 = .illegal 0x08 ∧
    decodeProducer 0x00004103 = .rxWrite 0x41 := by decide
theorem test_decode_wire_bytes : decodeWire8 0xFF = .start ∧ decodeWire8 0xFD = .escape ∧
    decodeWire8 0xFE = .literal 0xFE ∧ decodeWire8 0x00 = .literal 0x00 := by decide
theorem test_decode_wire_pairs : decodeWire16 0xFD 0xFE = (.escStart, []) ∧
    decodeWire16 0xFD 0xFC = (.escEscape, []) ∧ decodeWire16 0xFD 0x00 = (.escPair 0x00, []) ∧
    decodeWire16 0xFD 0xFD = (.escPair 0xFD, []) := by decide
theorem test_decode_escape_before_start :
    decodeWire16 0xFD 0xFF = (.escape, [.wire8 0xFF]) := by decide
theorem test_decode_named_commands :
    decodeCommand 0x00 0 = .cmdReservedZero 0 ∧ decodeCommand 0x01 2 = .cmdScanReport 2 ∧
    decodeCommand 0x02 2 = .cmdSetLed 2 ∧ decodeCommand 0x03 0 = .cmdAutoscanOn 0 ∧
    decodeCommand 0x04 0 = .cmdAutoscanOff 0 ∧ decodeCommand 0x06 1 = .cmdVendor06 1 ∧
    decodeCommand 0x07 1 = .cmdVendor07 1 ∧ decodeCommand 0x09 1 = .cmdVendor09 1 ∧
    decodeCommand 0x0A 1 = .cmdVendor0A 1 ∧ decodeCommand 0x0B 1 = .cmdVendor0B 1 ∧
    decodeCommand 0x0C 1 = .cmdVendor0C 1 ∧ decodeCommand 0x10 0 = .cmdDetect 0 ∧
    decodeCommand 0xEE 0 = .cmdException 0 ∧ decodeCommand 0xF0 18 = .cmdBoardInfo 18 := by decide
theorem test_decode_other_commands : decodeCommand 0x05 0 = .cmdOther 0x05 0 ∧
    decodeCommand 0x08 0 = .cmdOther 0x08 0 ∧ decodeCommand 0xFF 7 = .cmdOther 0xFF 7 := by decide

/-- The host's table words: a request word, a pair with bits 15:8 first, a wire byte, a command. -/
theorem test_table_words : decodeTableWord 32 0x9905000A = some (.txLoad 0 5) ∧
    decodeTableWord 16 0xFDFC = some .escEscape ∧ decodeTableWord 8 0xFD = some .escape ∧
    decodeTableWord 8 0x10 = some (.cmdDetect 0) ∧ decodeTableWord 8 0x7F = some (.literal 0x7F) ∧
    decodeTableWord 24 0 = none := by decide

theorem test_assemble : assemble ⟨"TX_LOAD", [0, 5]⟩ = some (.txLoad 0 5) ∧
    assemble ⟨"TX_READ", [300]⟩ = some (.txRead 300) ∧ assemble ⟨"RX_PEEK", [256]⟩ = none ∧
    assemble ⟨"ENCODE", [1, 2]⟩ = none := by decide

/-! ## Codec vectors (95_test_vectors.md V-L2, 2.1) -/

theorem test_encByte_stuffs : answer (.encByte 0xFF) (fresh 16) = some [0, 0xFD, 0xFE, 0, 2] ∧
    answer (.encByte 0xFD) (fresh 16) = some [0, 0xFD, 0xFC, 0, 2] := by decide
theorem test_encByte_plain : answer (.encByte 0xFE) (fresh 16) = some [0, 0xFE, 0, 0, 1] := by decide
theorem test_decByte_unescaped : answer (.decByte 0xFD false) (fresh 16) = some [0, 0, 2, 0, 0] ∧
    answer (.decByte 0xFF false) (fresh 16) = some [0, 0xFF, 5, 0, 0] := by decide
theorem test_decByte_escaped : answer (.decByte 0xFE true) (fresh 16) = some [0, 0xFF, 1, 0, 0] ∧
    answer (.decByte 0xFF true) (fresh 16) = some [0, 0, 5, 0, 0] := by decide
theorem test_chk_vectors : chk [0xFF, 0x01, 0x00] = 0x00 ∧ chk [0xFF, 0x01, 0x01, 0x05] = 0xFA ∧
    chk [0xFF, 0xF0, 0x12] = 0xFF ∧ chk [0xFF, 0x01, 0x03, 0x10, 0x20, 0x30] = 0x9D := by decide
theorem test_wire_rows : answer .start (fresh 16) = some [0, 0xFF, 5, 0, 0] ∧
    answer .escape (fresh 16) = some [0, 0, 2, 0, 0] ∧
    answer (.literal 0x41) (fresh 16) = some [0, 0x41, 1, 0, 0] := by decide
theorem test_wire_pairs : answer .escStart (fresh 16) = some [0, 0xFF, 1, 0, 0] ∧
    answer .escEscape (fresh 16) = some [0, 0xFD, 1, 0, 0] ∧
    answer (.escPair 0x7F) (fresh 16) = some [0, 0x80, 1, 0, 0] := by decide

/-! ## Receive buffer vectors (95_test_vectors.md 2.2) -/

/-- The buffer of V-L6: C = 16, TAIL = 14, HEAD = 3. -/
def wrapped : State := received 16 14 [0xFF, 0x01, 0x01, 0x05, 0xFA]

theorem test_rxWrite_wraps :
    let s := { fresh 16 with head := 15, tail := 3 }
    answer (.rxWrite 0xFF) s = some [0, 0, 0, 0, 13] ∧ (after (.rxWrite 0xFF) s).head = 0 ∧
      (after (.rxWrite 0xFF) s).rxbuf = [(15, 0xFF)] := by decide
theorem test_rxWrite_full :
    let s := received 4 0 [0x0A, 0x0B, 0x0C]
    answer (.rxWrite 0x0D) s = some [1, 0, 0, 0, 0] ∧ (after (.rxWrite 0x0D) s).head = 3 ∧
      (after (.rxWrite 0x0D) s).rxbuf = [(0, 0x0A), (1, 0x0B), (2, 0x0C)] := by decide
theorem test_rxWriteN_counts : (rxWriteN [0x0A, 0x0B, 0x0C, 0x0D] (fresh 4)).1 = 3 := by decide
theorem test_rxPending : answer .rxPending wrapped = some [0, 3, 14, 0, 5] ∧
    answer .rxPending (fresh 16) = some [0, 0, 0, 0, 0] := by decide
theorem test_rxPeek : answer (.rxPeek 2) wrapped = some [0, 1, 0, 0, 0] ∧
    answer (.rxPeek 4) wrapped = some [0, 0xFA, 0, 0, 0] ∧
    answer (.rxPeek 5) wrapped = some [2, 0, 0, 0, 0] := by decide
theorem test_rxReadAt : answer (.rxReadAt 14) wrapped = some [0, 0xFF, 0, 0, 0] ∧
    answer (.rxReadAt 17) wrapped = some [0, 5, 0, 0, 0] := by decide
theorem test_rxAdvance_refuses : answer (.rxAdvance 5) wrapped = some [2, 0, 0, 0, 0] ∧
    answer (.rxAdvance 16) wrapped = some [2, 0, 0, 0, 0] ∧
    answer (.rxAdvance 13) wrapped = some [2, 0, 0, 0, 0] := by decide
theorem test_rxAdvance_moves : answer (.rxAdvance 14) wrapped = some [0, 0, 0, 0, 5] ∧
    answer (.rxAdvance 1) wrapped = some [0, 0, 0, 0, 2] ∧
    (after (.rxAdvance 1) wrapped).tail = 1 ∧
    answer (.rxAdvance 3) wrapped = some [0, 0, 0, 0, 0] := by decide

/-! ## Parser vectors (95_test_vectors.md 2.3) -/

/-- The wrapped frame of V-L6, command 0x00 with a matching checksum, a stuffed command. -/
theorem test_decodeNext_reports :
    answer .decodeNext wrapped = some [0, 1, 1, 0x03, 5] ∧
    answer .decodeNext (received 32 0 [0xFF, 0x00, 0x00, 0x01]) = some [0, 0, 0, 0x42, 4] ∧
    answer .decodeNext (received 32 0 [0xFF, 0xFD, 0xFE, 0x00, 0x02]) =
      some [0, 0xFF, 0, 0x03, 4] := by decide
/-- A START behind an ESCAPE still frames; the two recoveries that drop less than everything. -/
theorem test_decodeNext_moves_tail :
    (after .decodeNext (received 32 0 [0xFF, 0x01, 0x01, 0xFD, 0xFF, 0x12])).tail = 4 ∧
    (after .decodeNext (received 8 0 [0x01, 0x02, 0xFF, 0x01, 0x02, 0x03, 0x04])).tail = 2 ∧
    (after .decodeNext (received 8 0 [0xFF, 0x01, 0x05, 0x01, 0x02, 0x03, 0x04])).tail = 1 := by
  decide
theorem test_scratchRead :
    let s := after .decodeNext (received 32 0 [0xFF, 0x01, 0x01, 0x05, 0xFA])
    answer (.scratchRead 0) s = some [0, 0xFF, 0, 0, 0] ∧
      answer (.scratchRead 3) s = some [0, 5, 0, 0, 0] ∧
      answer (.scratchRead 128) s = some [2, 0, 0, 0, 0] := by decide

/-! ## Encoder vectors (95_test_vectors.md 2.4, V-L1, V-L8) -/

theorem test_txLoad : answer (.txLoad 123 7) (fresh 16) = some [0, 0, 0, 0, 0] ∧
    (after (.txLoad 123 7) (fresh 16)).txData = [(123, 7)] ∧
    answer (.txLoad 124 1) (fresh 16) = some [2, 0, 0, 0, 0] := by decide
theorem test_encode_refuses : answer (.encode 0 253 0) (fresh 16) = some [4, 0, 0, 0, 0] ∧
    answer (.encode 1 125 0) (fresh 16) = some [3, 0, 0, 0, 0] := by decide
theorem test_encode_corrupts_checksum :
    let s := staged (fresh 16) [0x05]
    answer (.encode 1 1 3) s = some [0, 0xFD, 0xFA, 0, 6] ∧
      (after (.encode 1 1 3) s).wireBytes = [0xFF, 0x01, 0x01, 0x05, 0xFD, 0xFC] := by decide
theorem test_txRead :
    let s := after (.encode 1 1 0) (staged (fresh 16) [0x05])
    answer (.txRead 4) s = some [0, 0xFA, 0, 0, 0] ∧ answer (.txRead 5) s = some [2, 0, 0, 0, 0] ∧
      answer (.txRead 0) (fresh 16) = some [2, 0, 0, 0, 0] := by decide
theorem test_command_rows_frame :
    (after (.cmdSetLed 0) (fresh 16)).wireBytes = [0xFF, 0x02, 0x00, 0xFD, 0xFE] ∧
    (after (.cmdAutoscanOn 0) (fresh 16)).wireBytes = [0xFF, 0x03, 0x00, 0xFE] ∧
    (after (.cmdAutoscanOff 0) (fresh 16)).wireBytes = [0xFF, 0x04, 0x00, 0xFD, 0xFC] ∧
    (after (.cmdDetect 0) (fresh 16)).wireBytes = [0xFF, 0x10, 0x00, 0xF1] ∧
    (after (.cmdException 0) (fresh 16)).wireBytes = [0xFF, 0xEE, 0x00, 0x13] ∧
    (after (.cmdBoardInfo 0) (fresh 16)).wireBytes = [0xFF, 0xF0, 0x00, 0x11] ∧
    (after (.cmdOther 0xFD 0) (fresh 16)).wireBytes = [0xFF, 0xFD, 0xFC, 0x00, 0x04] := by decide
theorem test_scan_report_with_payload :
    (after (.cmdScanReport 4) (staged (fresh 16) [0x00, 0xFF, 0xFD, 0x7F])).wireBytes =
      [0xFF, 0x01, 0x04, 0x00, 0xFD, 0xFE, 0xFD, 0xFC, 0x7F, 0x81] := by decide
/-- The vendor rows' checksums, by hand from 40_codec.md R105: 1 - cmd modulo 256. -/
theorem test_vendor_rows_frame :
    (after (.cmdVendor06 0) (fresh 16)).wireBytes = [0xFF, 0x06, 0x00, 0xFB] ∧
    (after (.cmdVendor07 0) (fresh 16)).wireBytes = [0xFF, 0x07, 0x00, 0xFA] ∧
    (after (.cmdVendor09 0) (fresh 16)).wireBytes = [0xFF, 0x09, 0x00, 0xF8] ∧
    (after (.cmdVendor0A 0) (fresh 16)).wireBytes = [0xFF, 0x0A, 0x00, 0xF7] ∧
    (after (.cmdVendor0B 0) (fresh 16)).wireBytes = [0xFF, 0x0B, 0x00, 0xF6] ∧
    (after (.cmdVendor0C 0) (fresh 16)).wireBytes = [0xFF, 0x0C, 0x00, 0xF5] := by decide
theorem test_reserved_command : answer (.cmdReservedZero 0) (fresh 16) = some [4, 0, 0, 0, 0] := by
  decide
/-- V-L8: the bytes that the TX_READs of SEND_CORRUPT answer. -/
theorem test_sendCorrupt_answers_the_frame :
    (sendCorrupt 1 [0x05] 3 (fresh 16)).map (fun p => p.1) =
      some [0xFF, 0x01, 0x01, 0x05, 0xFD, 0xFC] := by decide
theorem test_illegal : answer (.illegal 0x0D) (fresh 16) = some [5, 0, 0, 0, 0] := by decide
/-- V-L3: the BoardInfo payload of 30_encoding.md R77 and its checksum. -/
theorem test_boardInfo_payload :
    let b : BoardInfo :=
      { model := #v[0x31, 0x35, 0x32, 0x37, 0x35, 0x20, 0x20, 0x20]
        chipNumber := #v[0x30, 0x36, 0x36, 0x38, 0x37]
        reserved1 := 0, firmwareVersion := 0, reserved2 := #v[0, 0] }
    b.payload.length = 18 ∧ packetChk 0xF0 18 b.payload = 0xF0 := by decide

/-! ## Reset and one step -/

/-- The reset memories are canonical (10_state.md R40). -/
theorem test_reset_memories_canonical : ∀ sp : Space, (State.reset.mem sp).wf := by
  intro sp; cases sp <;> decide

/-- Releasing an asserted reset with no step in between resets, and what was presented is lost. -/
theorem test_release_of_reset :
    let s := ((wrapped.driveReset true).present (.op 0x00000008)).driveReset false
    s.head = 0 ∧ s.tail = 0 ∧ s.requesterQ = [] ∧ s.resetLine = false := by decide
/-- Placing a request on an asserted line releases it with the reset table applied. -/
theorem test_place_under_reset :
    let s := (wrapped.driveReset true).withFetchWord 32 0x00000004
    s.head = 0 ∧ s.requesterQ = [.op 0x00000004] ∧ s.resetLine = false := by decide

/-- A placed word runs as the first instruction after reset. -/
theorem test_step_runs_the_placed_word :
    step (State.reset.withFetchWord 32 0x00000004) =
      .next { State.reset with
        acceptedFrom := .requester, accepted := 1
        response := some { status := 0, r0 := 0, r1 := 0, r2 := 0, r3 := 0 } } := rfl

/-- A placed pair whose second byte is START leaves that START waiting. -/
theorem test_step_leaves_the_start_waiting :
    step (State.reset.withFetchWord 16 0xFDFF) =
      .next { State.reset with
        acceptedFrom := .requester, accepted := 1, requesterQ := [.wire8 0xFF]
        response := some { status := 0, r0 := 0, r1 := 2, r2 := 0, r3 := 0 } } := rfl

/-! ## The hypotheses of the statements can be met -/

theorem test_meets_decodeOfEncode : (Instr.illegal 0x00).wf = true ∧ (Instr.illegal 0x0D).wf = true ∧
    (Instr.literal 0xFE).wf = true ∧ (Instr.escPair 0xFD).wf = true ∧
    (Instr.cmdOther 0x05 3).wf = true ∧ (Instr.cmdOther 0xFF 0).wf = true := by decide
theorem test_meets_onlyUsedOperandBits :
    fieldOp 0x00000004 = fieldOp 0xFFFFFF04 ∧
      (0x00000004 : RequestWord) &&& usedBits 0x04 = 0xFFFFFF04 &&& usedBits 0x04 ∧
      fieldOp 0x00012C0C = fieldOp 0xFF032C0C ∧
      (0x00012C0C : RequestWord) &&& usedBits 0x0C = 0xFF032C0C &&& usedBits 0x0C := by decide
theorem test_meets_illegalOpcode :
    ((0x00 : Byte) = 0x00 ∨ 0x0D ≤ (0x00 : Byte).toNat) ∧
      ((0x0D : Byte) = 0x00 ∨ 0x0D ≤ (0x0D : Byte).toNat) ∧
      ((0xFF : Byte) = 0x00 ∨ 0x0D ≤ (0xFF : Byte).toNat) := by decide

/-- Two ports, a request waiting at each or at one of them. -/
def waiting (ports : Nat) (rs : List Request) (ws : List RequestWord) : State :=
  { State.resetOf { rxCap := 2, maxPacket := 128, ports := ports } 0 with
    requesterQ := rs, producerQ := ws }

theorem test_meets_stepRuns_requester :
    (waiting 2 [.op 0x00000004] []).resetLine = false ∧
      (waiting 2 [.op 0x00000004] []).requesterQ = .op 0x00000004 :: [] ∧
      ((waiting 2 [.op 0x00000004] []).producerQ = [] ∨
        (waiting 2 [.op 0x00000004] []).cfg.ports ≠ 2 ∨
        Config.arbiter (waiting 2 [.op 0x00000004] []).accepted = .requester) ∧
      ((waiting 1 [.wire8 0xFD] [0x00000003]).producerQ = [] ∨
        (waiting 1 [.wire8 0xFD] [0x00000003]).cfg.ports ≠ 2 ∨
        Config.arbiter (waiting 1 [.wire8 0xFD] [0x00000003]).accepted = .requester) :=
  ⟨rfl, rfl, .inl rfl, .inr (.inl (by decide))⟩
theorem test_meets_stepRuns_producer :
    (waiting 2 [] [0x00004103]).resetLine = false ∧
      (waiting 2 [] [0x00004103]).producerQ = 0x00004103 :: [] ∧
      (waiting 2 [] [0x00004103]).cfg.ports = 2 ∧
      ((waiting 2 [] [0x00004103]).requesterQ = [] ∨
        Config.arbiter (waiting 2 [] [0x00004103]).accepted = .producer) :=
  ⟨rfl, rfl, rfl, .inl rfl⟩
theorem test_meets_idleStep :
    (waiting 2 [] []).resetLine = false ∧ (waiting 2 [] []).requesterQ = [] ∧
      ((waiting 2 [] []).producerQ = [] ∨ (waiting 2 [] []).cfg.ports ≠ 2) ∧
      ((waiting 1 [] [0x00000003]).producerQ = [] ∨ (waiting 1 [] [0x00000003]).cfg.ports ≠ 2) := by
  decide
/-- The three cases: the producer served, the requester served with a byte put back, nothing waiting. -/
theorem test_meets_portsAreServed :
    (∃ t, step (waiting 2 [] [0x00004103]) = .next t ∧ t.producerQ = [] ∧
      t.acceptedFrom = .producer) ∧
    (∃ t, step (waiting 2 [.wire16 0x41 0xFF] []) = .next t ∧ t.requesterQ = [.wire8 0xFF] ∧
      t.acceptedFrom = .requester) ∧
    (∃ t, step (waiting 2 [] []) = .next t ∧ t = waiting 2 [] []) ∧
    (waiting 2 [] [0x00004103]).resetLine = false :=
  ⟨⟨_, rfl, rfl, rfl⟩, ⟨_, rfl, rfl, rfl⟩, ⟨_, rfl, rfl⟩, rfl⟩
theorem test_meets_producerPort :
    (∃ t, step (waiting 2 [] [0x00004103]) = .next t ∧ t.head = 1) ∧
      (∃ t, step (waiting 2 [] [0x00000008]) = .next t ∧ t.head = 0) ∧
      fieldOp 0x00004103 = 0x03 ∧ fieldOp 0x00000008 ≠ 0x03 :=
  ⟨⟨_, rfl, rfl⟩, ⟨_, rfl, rfl⟩, by decide, by decide⟩
theorem test_meets_unwrittenEntries :
    ∃ t, exec (.txLoad 0 5) (fresh 2) = .next t ∧ (t.mem .txData).read 1 = none ∧
      (t.mem .rxbuf).read 0 = none := ⟨_, rfl, rfl, rfl⟩
theorem test_meets_assertedReset : (wrapped.driveReset true).resetLine = true ∧
    { wrapped with resetLine := true }.resetLine = true := ⟨rfl, rfl⟩
theorem test_meets_legal : Config.Legal ⟨2, 128, 1⟩ ∧ Config.Legal ⟨255, 256, 2⟩ := by decide
/-- Neither a first RX_WRITE nor a first encoder row, but work of every other kind. -/
theorem test_meets_readsAfterReset :
    let is : List Instr := [.txLoad 0 5, .rxAdvance 0, .decodeNext, .rxPeek 0]
    (∃ s, execAll is (State.resetOf ⟨2, 128, 1⟩ 0) = .next s ∧ s.txData = [(0, 5)]) ∧
      (∀ b, Instr.rxWrite b ∉ is) ∧ ∀ i ∈ is, runsEncoder i = false :=
  ⟨⟨_, rfl, rfl⟩, by simp, by simp [runsEncoder]⟩

/-- The fresh state is good, and a step leads on from it. -/
theorem test_meets_invariant :
    (waiting 2 [.op 0x00000008] [0x00004103]).Inv ∧
      (waiting 2 [.op 0x00000008] [0x00004103]).ResultsAgree ∧
      ∃ t, step (waiting 1 [.op 0x00000008] []) = .next t ∧ t.accepted = 1 := by
  refine ⟨⟨?_, ?_, ?_⟩, ?_, _, rfl, rfl⟩ <;> decide
theorem test_meets_errors :
    ∃ (t : State) (r : Response), exec (.encode 0 253 0) (fresh 2) = .next t ∧
      t.response = some r ∧ r.status ≠ 0 := ⟨_, _, rfl, rfl, by decide⟩
theorem test_meets_onlyNamedOperations :
    ∃ t, exec .decodeNext (received 8 0 [0xFF]) = .next t ∧ t.pktCount = 1 ∧
      (∀ b, Instr.decodeNext ≠ .rxWrite b) ∧ runsEncoder .decodeNext = false :=
  ⟨_, rfl, by decide, by simp, rfl⟩
theorem test_meets_readsAreRepeatable :
    ∃ t, exec (.rxPeek 4) wrapped = .next t ∧ t.answeredOk = true := ⟨_, rfl, by decide⟩
theorem test_meets_buildNeverChanges : ∃ t, step (waiting 2 [] []) = .next t := ⟨_, rfl⟩

theorem test_meets_codec_clauses :
    ((0x00 : Byte) ≠ 0xFF ∧ (0x00 : Byte) ≠ 0xFD) ∧ ((0xFE : Byte) ≠ 0xFF ∧ (0xFE : Byte) ≠ 0xFD) ∧
      ((true = true) ∧ (0xFE : Byte) ≠ 0xFF) ∧ ((false = false) ∧ (0xFC : Byte) ≠ 0xFD) := by decide
theorem test_meets_checksum_perm : ([1, 2, 3] : List Byte).Perm [3, 1, 2] := by decide

theorem test_meets_rxWrite : (received 4 3 [1, 2]).CursorsLegal ∧
    ((received 4 3 [1, 2]).head.toNat + 1) % 4 ≠ (received 4 3 [1, 2]).tail.toNat ∧
    (received 4 3 [1, 2, 3]).CursorsLegal ∧
    ((received 4 3 [1, 2, 3]).head.toNat + 1) % 4 = (received 4 3 [1, 2, 3]).tail.toNat := by decide
theorem test_meets_rxPeek : wrapped.CursorsLegal ∧
    (((4 : Byte).toNat : Int) < ((wrapped.head.toNat : Int) - wrapped.tail.toNat) % 16) ∧
    ((wrapped.head.toNat : Int) - wrapped.tail.toNat) % 16 ≤ ((5 : Byte).toNat : Int) := by decide
theorem test_meets_rxAdvance_range : wrapped.CursorsLegal ∧ wrapped.cfg.rxCap ≤ (16 : Byte).toNat ∧
    (4 : Byte).toNat < wrapped.cfg.rxCap ∧
    ((wrapped.head.toNat : Int) - wrapped.tail.toNat) % 16 <
      (((4 : Byte).toNat : Int) - wrapped.tail.toNat) % 16 := by decide
theorem test_meets_rxAdvance_moves :
    (3 : Byte).toNat < wrapped.cfg.rxCap ∧
    (((3 : Byte).toNat : Int) - wrapped.tail.toNat) % 16 ≤
      ((wrapped.head.toNat : Int) - wrapped.tail.toNat) % 16 ∧
    (((14 : Byte).toNat : Int) - wrapped.tail.toNat) % 16 ≤
      ((wrapped.head.toNat : Int) - wrapped.tail.toNat) % 16 := by decide
theorem test_meets_rxAdvance_drops :
    wrapped.CursorsLegal ∧ (∃ t, exec (.rxAdvance 1) wrapped = .next t ∧ t.answeredOk = true) ∧
      ∃ t, exec (.rxAdvance wrapped.head) wrapped = .next t ∧ t.answeredOk = true :=
  ⟨by decide, ⟨_, rfl, rfl⟩, ⟨_, rfl, rfl⟩⟩
theorem test_meets_unreadBytes :
    (∃ t, exec (.rxWrite 9) wrapped = .next t ∧ t.window = wrapped.window ++ [9]) ∧
      ∃ t, exec .decodeNext wrapped = .next t ∧ t.window = [] :=
  ⟨⟨_, rfl, by decide⟩, ⟨_, rfl, by decide⟩⟩
/-- The smallest and the largest receive buffer. -/
theorem test_meets_cursorsLegal :
    (received 2 1 [0xFF]).CursorsLegal ∧ (fresh 255).CursorsLegal ∧ wrapped.CursorsLegal := by decide

theorem test_meets_parseWithoutStart :
    (fresh 8).CursorsLegal ∧ START ∉ (fresh 8).window ∧
      (received 8 0 [1, 2, 3, 4, 5, 6, 7]).CursorsLegal ∧
      START ∉ (received 8 0 [1, 2, 3, 4, 5, 6, 7]).window ∧
      (received 8 0 [1, 2, 3, 4, 5, 6, 7]).pending = 8 - 1 := by decide
/-- A doubled START, the shortest forced span. -/
theorem test_meets_secondStart :
    (received 8 7 [9, 0xFF, 0xFF]).CursorsLegal ∧
      (received 8 7 [9, 0xFF, 0xFF]).window = [9] ++ START :: [] ++ START :: [] ∧
      START ∉ ([9] : List Byte) := by decide
theorem test_meets_tentativeValid :
    (received 5 4 [0xFF, 1, 0, 0]).CursorsLegal ∧
      (received 5 4 [0xFF, 1, 0, 0]).window = [] ++ START :: [1, 0, 0] ∧
      START ∉ ([1, 0, 0] : List Byte) ∧ rawValid (spanRaw 128 [1, 0, 0]) = true := by decide
theorem test_meets_tentativeInvalid :
    (received 8 0 [9, 0xFF, 0, 0, 1]).CursorsLegal ∧
      (received 8 0 [9, 0xFF, 0, 0, 1]).window = [9] ++ START :: [0, 0, 1] ∧
      START ∉ ([0, 0, 1] : List Byte) ∧ rawValid (spanRaw 128 [0, 0, 1]) = false ∧
      (received 8 0 [9, 0xFF, 0, 0, 1]).pending ≠ 8 - 1 := by decide
theorem test_meets_fullBuffer :
    (received 4 0 [9, 0xFF, 1]).CursorsLegal ∧ (received 4 0 [9, 0xFF, 1]).pending = 4 - 1 ∧
      (received 4 0 [9, 0xFF, 1]).window = [9] ++ START :: [1] ∧
      (received 2 0 [0xFF]).CursorsLegal ∧ (received 2 0 [0xFF]).pending = 2 - 1 ∧
      (received 2 0 [0xFF]).window = [] ++ START :: [] ∧
      rawValid (spanRaw 128 []) = false ∧ rawValid (spanRaw 128 [1]) = false := by decide
theorem test_meets_parseDependsOnWindow :
    (received 16 0 [0xFF, 1, 1, 5, 0xFA]).CursorsLegal ∧
      (received 16 0 [0xFF, 1, 1, 5, 0xFA]).cfg = wrapped.cfg ∧
      (received 16 0 [0xFF, 1, 1, 5, 0xFA]).window = wrapped.window := by decide
theorem test_meets_parseMakesProgress :
    (∃ t, exec .decodeNext wrapped = .next t ∧ statusCode t.pktStatus = PktCode.code .valid) ∧
      (∃ t, exec .decodeNext (received 2 0 [0xFF]) = .next t ∧ statusRecovered t.pktStatus = true) ∧
      ∃ t, exec .decodeNext (fresh 2) = .next t ∧ statusRecovered t.pktStatus = false :=
  ⟨⟨_, rfl, by decide⟩, ⟨_, rfl, by decide⟩, ⟨_, rfl, by decide⟩⟩
theorem test_meets_partialFrames :
    (fresh 8).CursorsLegal ∧ (fresh 8).head = (fresh 8).tail ∧ (1 : Byte) ≠ 0x00 ∧
      ([0xFF, 5] : List Byte).length = (2 : Byte).toNat ∧ (2 : Byte).toNat ≤ 128 - 4 ∧
      (frame 1 2 [0xFF, 5] (packetChk 1 2 [0xFF, 5])).length ≤ 8 - 1 := by decide
theorem test_meets_scratchRead : (127 : Byte).toNat < (fresh 2).cfg.maxPacket ∧
    (fresh 2).cfg.maxPacket ≤ (128 : Byte).toNat ∧ START ∈ wrapped.window := by decide
/-- The last payload byte of a packet whose view ends at SCRATCH's last entry, 127. -/
theorem test_meets_scratchRead_payload :
    let s := { fresh 2 with pktLen := 125 }
    s.cfg.Legal ∧ 124 < s.pktLen.toNat ∧ 3 + 124 < s.cfg.maxPacket := by decide

theorem test_meets_txLoad : (123 : Byte).toNat < (fresh 2).cfg.maxPacket - 4 ∧
    (fresh 2).cfg.maxPacket - 4 ≤ (124 : Byte).toNat := by decide
theorem test_meets_encode : (fresh 2).cfg.Legal ∧ (1 : Byte) ≠ 0x00 ∧
    (124 : Byte).toNat ≤ (fresh 2).cfg.maxPacket - 4 ∧
    (fresh 2).cfg.maxPacket - 4 < (125 : Byte).toNat ∧
    Config.Legal ⟨2, 256, 2⟩ ∧ (252 : Byte).toNat ≤ 256 - 4 ∧ 256 - 4 < (253 : Byte).toNat := by decide
theorem test_meets_txRead :
    let s := after (.encode 1 0 0) (fresh 2)
    (3 : Word9).toNat < s.txLen.toNat ∧ s.txLen.toNat ≤ (4 : Word9).toNat ∧
      (fresh 2).cfg.Legal ∧ s.answeredOk = true := by decide
theorem test_meets_sendAnswersTheFrame :
    (fresh 2).cfg.Legal ∧ (1 : Byte) ≠ 0x00 ∧
      (List.replicate 124 (0xFF : Byte)).length ≤ (fresh 2).cfg.maxPacket - 4 :=
  ⟨by decide, by decide, by rw [List.length_replicate]; decide⟩
theorem test_meets_frames : ([0xFF, 0xFD] : List Byte).length = (2 : Byte).toNat ∧
    Config.Legal ⟨2, 128, 1⟩ ∧ (2 : Byte).toNat ≤ Config.maxData ⟨2, 128, 1⟩ := by decide
theorem test_meets_encodeThenDecode :
    (staged (received 16 14 []) [5]).CursorsLegal ∧
      (staged (received 16 14 []) [5]).head = (staged (received 16 14 []) [5]).tail ∧
      (1 : Byte).toNat ≤ 128 - 4 ∧
      (frame 1 1 ((staged (received 16 14 []) [5]).readSlice .txData 0 1)
        (packetChk 1 1 ((staged (received 16 14 []) [5]).readSlice .txData 0 1))).length ≤ 16 - 1 := by
  decide
/-- A corrupt frame held, and one forced out by the next START. -/
theorem test_meets_corruptChecksum :
    (1 : Byte) ≠ 0 ∧ endsRegion [] = true ∧ endsRegion [START] = true ∧
      (received 32 0 [9, 0xFF, 1, 0, 1]).CursorsLegal ∧
      (received 32 0 [9, 0xFF, 1, 0, 1]).window = [9] ++ frame 1 0 [] (packetChk 1 0 [] + 1) ++ [] ∧
      (received 32 0 [0xFF, 1, 0, 1, 0xFF]).CursorsLegal ∧
      (received 32 0 [0xFF, 1, 0, 1, 0xFF]).window =
        [] ++ frame 1 0 [] (packetChk 1 0 [] + 1) ++ [START] := by decide
/-- V-L7: payload byte 1 of `10 20 30` changed to 0x21. -/
theorem test_meets_oneChangedByte :
    (received 32 0 [0xFF, 1, 3, 0x10, 0x21, 0x30, 0x9D]).CursorsLegal ∧
      (0x21 : Byte) ≠ ([0x10, 0x20, 0x30] : List Byte).getD 1 0 ∧
      (received 32 0 [0xFF, 1, 3, 0x10, 0x21, 0x30, 0x9D]).window =
        [] ++ frame 1 3 (([0x10, 0x20, 0x30] : List Byte).set 1 0x21)
          (packetChk 1 3 [0x10, 0x20, 0x30]) ++ [] := by decide

end Sys2Proof.Tests
end

section
/-! The state's invariants: what each update of the state does to `Inv` and `ResultsAgree`, which
instruction writes which part of the state, and what one step can do (10_state.md). -/

namespace Sys2Proof.Machine

/-! ## The values of the reset table (10_state.md R40) -/

/-- A freshly reset legal build is a good state: every array is empty and every register 0. -/
theorem State.inv_resetOf {c : Config} (hc : c.Legal) (n : Nat) : (State.resetOf c n).Inv := by
  have hcap : 0 < c.rxCap := by have := hc.1.1; omega
  have hspace : ∀ sp, (State.resetOf c n).SpaceOk sp := fun sp => by
    cases sp <;> exact ⟨List.Pairwise.nil, fun _ hm => absurd hm List.not_mem_nil⟩
  have hreserved : statusReserved 0x00 = false := by decide
  exact ⟨⟨hc, hcap, hcap⟩, ⟨hspace _, hspace _, hspace _, hspace _⟩, Nat.zero_le _, Nat.zero_le _,
    Nat.zero_le _, hreserved, fun h => absurd h (Nat.lt_irrefl 0),
    fun h => absurd h (Nat.lt_irrefl 0), fun _ hr => absurd hr (Option.not_mem_none _)⟩

/-- After reset the result registers report EMPTY with every other field 0. -/
theorem State.resultsAgree_resetOf (c : Config) (n : Nat) : (State.resetOf c n).ResultsAgree := by
  have hcode : statusCode 0x00 = PktCode.code .empty := by decide
  have hvalid : statusCode 0x00 ≠ PktCode.code .valid := by decide
  have hresync : statusCode 0x00 ≠ PktCode.code .resync := by decide
  have hforced : statusForced 0x00 = false := by decide
  have hcz : statusCmdZero 0x00 ≠ true := by decide
  have hovf : statusOverflow 0x00 ≠ true := by decide
  exact ⟨fun _ => ⟨rfl, rfl, hforced⟩, fun h => absurd h hvalid, fun h => absurd h hresync,
    fun h => absurd h hcz, fun h => absurd h hovf, iff_of_true hcode rfl⟩

theorem Config.legal_largest : Config.largest.Legal := by decide

/-! ## The status codes and the outcome codes -/

theorem Status.code_toNat_le (e : Status) : e.code.toNat ≤ 5 := by cases e <;> decide

theorem PktCode.code_toNat_le (c : PktCode) : c.code.toNat ≤ 4 := by cases c <;> decide

@[simp] theorem PktCode.code_inj {c d : PktCode} : c.code = d.code ↔ c = d := by
  cases c <;> cases d <;> decide

/-! ## Each update of the state keeps the invariant -/

section
variable {s : State} (h : s.Inv)
include h

/-- Answering with a status of 60_exceptions.md R231 keeps the invariant. -/
theorem State.Inv.answer (e : Status) (r0 r1 r2 : Byte) (r3 : Word9) :
    { s with response := some { status := e.code, r0, r1, r2, r3 } : State }.Inv := by
  obtain ⟨hcur, hsp, hcount, hlen, hcode, hres, hscr, hwire, -⟩ := h
  refine ⟨hcur, hsp, hcount, hlen, hcode, hres, hscr, hwire, fun r hr => ?_⟩
  obtain rfl := Option.some.inj hr
  exact e.code_toNat_le

theorem State.Inv.respond (r0 r1 r2 : Byte) (r3 : Word9) : (s.respond r0 r1 r2 r3).Inv :=
  h.answer .ok r0 r1 r2 r3

theorem State.Inv.raise (e : Status) : (s.raise e).Inv := h.answer e 0 0 0 0

theorem State.Inv.writeRx {i : Nat} (hi : i < s.cfg.rxCap) (v : Byte) : (s.writeRx i v).Inv := by
  obtain ⟨hcur, ⟨⟨hwf, hbelow⟩, hspaces⟩, hrest⟩ := h
  exact ⟨hcur, ⟨⟨Memory.wf_write hwf i v, Memory.below_write hbelow hi v⟩, hspaces⟩, hrest⟩

theorem State.Inv.setHead {i : Nat} (hi : i < s.cfg.rxCap) : (s.setHead i).Inv := by
  have hnat := h.1.toNat_ofNat hi
  obtain ⟨⟨hc, -, htail⟩, hrest⟩ := h
  exact ⟨⟨hc, hnat.trans_lt hi, htail⟩, hrest⟩

theorem State.Inv.setTail {i : Nat} (hi : i < s.cfg.rxCap) : (s.setTail i).Inv := by
  have hnat := h.1.toNat_ofNat hi
  obtain ⟨⟨hc, hhead, -⟩, hrest⟩ := h
  exact ⟨⟨hc, hhead, hnat.trans_lt hi⟩, hrest⟩

theorem State.Inv.writeTxData {i : Nat} (hi : i < s.cfg.maxData) (v : Byte) :
    (s.writeTxData i v).Inv := by
  obtain ⟨hcur, ⟨hrx, hscr, ⟨hwf, hbelow⟩, htx⟩, hrest⟩ := h
  exact ⟨hcur, ⟨hrx, hscr, ⟨Memory.wf_write hwf i v, Memory.below_write hbelow hi v⟩, htx⟩, hrest⟩

/-- A frame that begins with START and fits TXWIRE keeps the invariant (10_state.md R35, R36). -/
theorem State.Inv.writeFrame {ws : List Byte} (hws : (START :: ws).length ≤ s.cfg.maxWire) :
    (s.writeFrame (START :: ws)).Inv := by
  obtain ⟨hcur, ⟨hrx, hscr, htd, hwf, hbelow⟩, hcount, -, hcode, hres, hscr0, -, hresp⟩ := h
  have htxLen : (s.writeFrame (START :: ws)).txLen.toNat ≤ s.cfg.maxWire :=
    (Nat.mod_le _ _).trans hws
  refine ⟨hcur, ⟨hrx, hscr, htd, Memory.wf_writeList hwf 0 _, Memory.below_writeList hbelow 0 _ ?_⟩,
    hcount, htxLen, hcode, hres, hscr0, fun _ => ?_, hresp⟩
  · rwa [Nat.zero_add]
  · exact cellAt_writeList_of_lt _ _ _ (START :: ws) (Nat.succ_pos _)

end

/-! ## The encoder (43_encoder.md R201) -/

/-- Stuffing at most doubles what follows the START (43_encoder.md R202). -/
theorem length_frame_le (cmd len : Byte) (data : List Byte) (c : Byte) :
    (frame cmd len data c).length ≤ 2 * data.length + 7 := by
  have hstuff := length_stuffSeq_le ([cmd, len] ++ data ++ [c])
  simp only [List.length_append, List.length_cons, List.length_nil] at hstuff
  rw [frame, List.length_cons]
  omega

section
variable {s : State} (h : s.Inv)
include h

theorem State.Inv.encodePacket (cmd delta : Byte) {len : Byte} (hlen : len.toNat ≤ s.cfg.maxData) :
    (s.encodePacket cmd len delta).Inv := by
  refine State.Inv.respond (h.writeFrame ((length_frame_le _ _ _ _).trans ?_)) _ _ _ _
  have hmp := h.1.maxPacket_ge
  rw [State.length_readSlice]
  unfold Config.maxData at hlen
  unfold Config.maxWire
  omega

theorem State.Inv.encodeChecked (cmd len delta : Byte) : (s.encodeChecked cmd len delta).Inv := by
  rcases s.encodeChecked_cases cmd len delta with ⟨-, he⟩ | ⟨-, -, he⟩ | ⟨-, hlen, he⟩ <;> rw [he]
  · exact h.raise .encCmd
  · exact h.raise .encLen
  · exact h.encodePacket cmd delta hlen

end

/-! ## The parser's write-back (42_parser.md R173) -/

/-- Every parse of the window leaves a good state. -/
theorem State.Inv.commitParse {s : State} (h : s.Inv) : (s.commitParse s.parse).Inv := by
  obtain ⟨hparse, htail⟩ := State.parse_bounds h.1
  have hnat := h.1.toNat_ofNat htail
  obtain ⟨hcode, -, -, -, -, hres⟩ := fields_packStatus s.parse.code s.parse.forced s.parse.ovf
    s.parse.recovered s.parse.cmdZero
  have hcode' : (statusCode s.parse.status).toNat ≤ 4 := by
    rw [Parse.status, hcode]; exact s.parse.code.code_toNat_le
  have hkmod : (BitVec.ofNat 9 s.parse.k).toNat ≤ s.parse.k := Nat.mod_le _ _
  obtain ⟨⟨hc, hhead, -⟩, ⟨hrx, hscr, htx⟩, -, hlen, -, -, -, hwire, hresp⟩ := h
  suffices hfill : (s.commitParse s.parse).SpaceOk .scratch ∧ s.parse.k ≤ s.cfg.maxPacket ∧
      (0 < s.parse.k → (s.commitParse s.parse).readByte .scratch 0 = START) by
    obtain ⟨hscr', hk, hstart⟩ := hfill
    exact ⟨⟨hc, hhead, hnat.trans_lt htail⟩, ⟨hrx, hscr', htx⟩, hkmod.trans hk, hlen, hcode', hres,
      fun hpos => hstart (hpos.trans_le hkmod), hwire, hresp⟩
  rcases hparse with ⟨hk, hsame, -⟩ | ⟨raw, hpos, hle, hraw0, hk, hfilled, -⟩
  · refine ⟨?_, by omega, by omega⟩
    rwa [State.SpaceOk, State.mem, State.commitParse_scratch, hsame]
  · have hread : (s.commitParse s.parse).readByte .scratch 0 = START := by
      rw [State.readByte_scratch, State.commitParse_scratch, hfilled,
        cellAt_writeList_of_lt _ _ _ _ hpos, hraw0]
    refine ⟨?_, by omega, fun _ => hread⟩
    rw [State.SpaceOk, State.mem, State.commitParse_scratch, hfilled]
    exact ⟨Memory.wf_writeList hscr.1 0 raw, Memory.below_writeList hscr.2 0 raw (by
      rw [Nat.zero_add]; exact hle)⟩

/-! ## The instructions keep the invariant -/

section
variable {i : Instr} {s t : State}

/-- Every instruction answers with one of the statuses of 60_exceptions.md R231. -/
theorem exec_answers (h : exec i s = .next t) :
    ∃ (e : Status) (r0 r1 r2 : Byte) (r3 : Word9), Answered t e r0 r1 r2 r3 := by
  by_cases henc : runsEncoder i = true
  · obtain ⟨cmd, len, delta, he⟩ := exec_of_runsEncoder henc s
    obtain rfl := Host.Outcome.next.inj (he.symm.trans h)
    rcases s.encodeChecked_cases cmd len delta with ⟨-, he⟩ | ⟨-, -, he⟩ | ⟨-, -, he⟩ <;>
      exact he ▸ ⟨_, _, _, _, _, rfl⟩
  · cases i
    case rxWrite b =>
      rcases exec_rxWrite_cases h with ⟨-, rfl⟩ | ⟨-, n, rfl⟩ <;> exact ⟨_, _, _, _, _, rfl⟩
    case rxPeek o =>
      rcases exec_rxPeek_cases h with ⟨-, rfl⟩ | ⟨-, rfl⟩ <;> exact ⟨_, _, _, _, _, rfl⟩
    case rxAdvance n =>
      rcases exec_rxAdvance_cases h with ⟨-, rfl⟩ | ⟨-, -, rfl⟩ <;> exact ⟨_, _, _, _, _, rfl⟩
    case scratchRead j =>
      rcases exec_scratchRead_cases h with ⟨-, rfl⟩ | ⟨-, rfl⟩ <;> exact ⟨_, _, _, _, _, rfl⟩
    case txLoad j b =>
      rcases exec_txLoad_cases h with ⟨-, rfl⟩ | ⟨-, rfl⟩ <;> exact ⟨_, _, _, _, _, rfl⟩
    case txRead j =>
      rcases exec_txRead_cases h with ⟨-, rfl⟩ | ⟨-, rfl⟩ <;> exact ⟨_, _, _, _, _, rfl⟩
    all_goals first
      | exact absurd rfl henc
      | (cases h; exact ⟨_, _, _, _, _, rfl⟩)

theorem exec_keeps_inv (hs : s.Inv) (h : exec i s = .next t) : t.Inv := by
  have hcap := hs.1.cap_pos
  rcases exec_classes h with ⟨r, rfl⟩ | ⟨b, rfl⟩ | ⟨n, rfl⟩ | rfl | ⟨j, b, rfl⟩ | henc
  · obtain ⟨e, r0, r1, r2, r3, hr⟩ := exec_answers h
    obtain rfl := Option.some.inj hr
    exact hs.answer e r0 r1 r2 r3
  · rcases exec_rxWrite_cases h with ⟨-, rfl⟩ | ⟨-, n, rfl⟩
    · exact hs.raise .full
    · exact ((hs.writeRx hs.1.2.1 b).setHead (Nat.mod_lt _ hcap)).respond 0 0 0 n
  · rcases exec_rxAdvance_cases h with ⟨-, rfl⟩ | ⟨hn, -, rfl⟩
    · exact hs.raise .range
    · exact (hs.setTail hn).respond 0 0 0 _
  · obtain rfl := Host.Outcome.next.inj ((exec_decodeNext_eq s).symm.trans h)
    exact hs.commitParse.respond _ _ _ _
  · rcases exec_txLoad_cases h with ⟨hj, rfl⟩ | ⟨-, rfl⟩
    · exact (hs.writeTxData hj b).respond 0 0 0 0
    · exact hs.raise .range
  · obtain ⟨cmd, len, delta, he⟩ := exec_of_runsEncoder henc s
    obtain rfl := Host.Outcome.next.inj (he.symm.trans h)
    exact hs.encodeChecked cmd len delta

/-! ## What the writing instructions leave unchanged (10_state.md R41) -/

theorem exec_rxWrite_keeps {b : Byte} (h : exec (.rxWrite b) s = .next t) :
    KeepsSurroundings s t ∧ t.tail = s.tail ∧ KeepsResults s t ∧ t.txLen = s.txLen ∧
      KeepsSpace .scratch s t ∧ KeepsSpace .txData s t ∧ KeepsSpace .txWire s t := by
  rcases exec_rxWrite_cases h with ⟨-, rfl⟩ | ⟨-, n, rfl⟩ <;>
    exact ⟨⟨rfl, rfl, rfl, rfl, rfl, rfl, rfl⟩, rfl, ⟨rfl, rfl, rfl, rfl⟩, rfl, fun _ => rfl,
      fun _ => rfl, fun _ => rfl⟩

theorem exec_rxAdvance_keeps {n : Byte} (h : exec (.rxAdvance n) s = .next t) :
    KeepsSurroundings s t ∧ t.head = s.head ∧ KeepsResults s t ∧ t.txLen = s.txLen ∧
      ∀ sp, KeepsSpace sp s t := by
  rcases exec_rxAdvance_cases h with ⟨-, rfl⟩ | ⟨-, -, rfl⟩ <;>
    exact ⟨⟨rfl, rfl, rfl, rfl, rfl, rfl, rfl⟩, rfl, ⟨rfl, rfl, rfl, rfl⟩, rfl,
      fun sp _ => by cases sp <;> rfl⟩

theorem exec_decodeNext_keeps (h : exec .decodeNext s = .next t) : KeepsBesidesParser s t := by
  obtain rfl := Host.Outcome.next.inj ((exec_decodeNext_eq s).symm.trans h)
  exact KeepsBesidesParser.commit s _ _ _ _ _

theorem exec_txLoad_keeps {j b : Byte} (h : exec (.txLoad j b) s = .next t) :
    KeepsSurroundings s t ∧ KeepsCursors s t ∧ KeepsResults s t ∧ t.txLen = s.txLen ∧
      KeepsSpace .rxbuf s t ∧ KeepsSpace .scratch s t ∧ KeepsSpace .txWire s t := by
  rcases exec_txLoad_cases h with ⟨-, rfl⟩ | ⟨-, rfl⟩ <;>
    exact ⟨⟨rfl, rfl, rfl, rfl, rfl, rfl, rfl⟩, ⟨rfl, rfl⟩, ⟨rfl, rfl, rfl, rfl⟩, rfl, fun _ => rfl,
      fun _ => rfl, fun _ => rfl⟩

theorem exec_encoder_keeps (henc : runsEncoder i = true) (h : exec i s = .next t) :
    KeepsSurroundings s t ∧ KeepsCursors s t ∧ KeepsResults s t ∧ KeepsSpace .rxbuf s t ∧
      KeepsSpace .scratch s t ∧ KeepsSpace .txData s t := by
  obtain ⟨cmd, len, delta, he⟩ := exec_of_runsEncoder henc s
  obtain rfl := Host.Outcome.next.inj (he.symm.trans h)
  rcases s.encodeChecked_cases cmd len delta with ⟨-, he⟩ | ⟨-, -, he⟩ | ⟨-, -, he⟩ <;>
    rw [he] <;>
    exact ⟨⟨rfl, rfl, rfl, rfl, rfl, rfl, rfl⟩, ⟨rfl, rfl⟩, ⟨rfl, rfl, rfl, rfl⟩, fun _ => rfl,
      fun _ => rfl, fun _ => rfl⟩

end

/-! ## One step -/

/-- `s` once a request has been accepted at `port`: what waits afterwards at each port, the noted port
and the count; nothing else is different. -/
def State.accepting (s : State) (port : Port) (rq : List Request) (pq : List RequestWord) : State :=
  { s with requesterQ := rq, producerQ := pq, acceptedFrom := port, accepted := s.accepted + 1 }

/-- Only a two-port build serves the producer port (20_memory.md R60). -/
theorem State.ports_of_servedPort_producer {s : State} (h : s.servedPort = some .producer) :
    s.cfg.ports = 2 := by
  by_contra hports
  rw [State.servedPort] at h
  split at h <;> simp [hports] at h

/-- What accepting a request can do: the oldest one of either port is decoded and taken off its queue,
at the producer port in a two-port build only (20_memory.md R59, R60). -/
theorem State.accept_cases {s : State} {a : Accepted} (h : s.accept = some a) :
    (∃ w ws, s.producerQ = w :: ws ∧ s.cfg.ports = 2 ∧
      a = ⟨decodeProducer w, s.accepting .producer s.requesterQ ws⟩) ∨
    ∃ r rs, s.requesterQ = r :: rs ∧
      a = ⟨(decode r).1, s.accepting .requester ((decode r).2 ++ rs) s.producerQ⟩ := by
  unfold State.accept at h
  split at h
  next w ws hport hw =>
    exact .inl ⟨w, ws, hw, State.ports_of_servedPort_producer hport, (Option.some.inj h).symm⟩
  next r rs _ hr => exact .inr ⟨r, rs, hr, (Option.some.inj h).symm⟩
  next => cases h

/-- What one step can do: apply the reset table, idle, or run one accepted instruction. -/
theorem step_cases {s t : State} (h : step s = .next t) :
    (s.resetLine = true ∧ t = s.takeReset true) ∨
    (s.resetLine = false ∧ s.accept = none ∧ t = s) ∨
    (s.resetLine = false ∧ ∃ a, s.accept = some a ∧ exec a.instr a.state = .next t) := by
  unfold step at h
  split at h
  next hline =>
    refine .inl ⟨hline, ?_⟩
    rw [← Host.Outcome.next.inj h, State.holdReset_eq, hline]
  next hline =>
    have hline : s.resetLine = false := by simpa using hline
    split at h
    next hnone => exact .inr (.inl ⟨hline, hnone, (Host.Outcome.next.inj h).symm⟩)
    next a ha => exact .inr (.inr ⟨hline, a, ha, h⟩)

/-- A property that reset establishes, accepting a request does not touch and every instruction keeps
is kept by every step. -/
theorem step_keeps {P : State → Prop} (hreset : ∀ s line, P s → P (s.takeReset line))
    (haccept : ∀ s port rq pq, P s → P (s.accepting port rq pq))
    (hexec : ∀ i s t, P s → exec i s = .next t → P t)
    {s t : State} (hs : P s) (h : step s = .next t) : P t := by
  rcases step_cases h with ⟨-, rfl⟩ | ⟨-, -, rfl⟩ | ⟨-, a, ha, hrun⟩
  · exact hreset s true hs
  · exact hs
  · refine hexec _ _ _ ?_ hrun
    rcases State.accept_cases ha with ⟨w, ws, -, -, rfl⟩ | ⟨r, rs, -, rfl⟩ <;>
      exact haccept s _ _ _ hs

theorem State.Inv.takeReset {s : State} (h : s.Inv) (line : Bool) : (s.takeReset line).Inv :=
  State.inv_resetOf h.1.1 (s.epoch + 1)

theorem State.Inv.accepting {s : State} (h : s.Inv) (port : Port) (rq : List Request)
    (pq : List RequestWord) : (s.accepting port rq pq).Inv := h

/-! ## The result registers -/

/-- A parse whose fields agree with each other, clause by clause as `State.ResultsAgree` asks it of the
registers (42_parser.md R173). -/
structure Parse.Agrees (p : Parse) (maxPacket : Nat) : Prop where
  noPacket : p.code = .empty ∨ p.code = .incomplete ∨ p.code = .heldInvalid →
    p.cmd = 0x00 ∧ p.len = 0x00 ∧ p.forced = false
  valid : p.code = .valid → p.cmd ≠ 0x00 ∧ p.cmdZero = false ∧ p.recovered = false
  resync : p.code = .resync → p.forced = true ∧ p.recovered = false
  cmdZero : p.cmdZero = true → p.code = .heldInvalid ∨ p.code = .resync
  overflow : p.ovf = true → p.k = maxPacket
  empty : p.code = .empty ↔ p.k = 0

theorem rawCmdZero_eq_false {raw : List Byte} (h : rawValid raw = true) : rawCmdZero raw = false := by
  simp_all [rawValid, rawCmdZero]

theorem cmd_ne_zero_of_rawValid {raw : List Byte} (h : rawValid raw = true) :
    raw.getD 1 0 ≠ 0x00 := by
  simp only [rawValid, Bool.and_eq_true, bne_iff_ne] at h
  exact h.2

theorem rawComplete_of_rawCmdZero {raw : List Byte} (h : rawCmdZero raw = true) :
    rawComplete raw = true := by
  simp only [rawCmdZero, rawChecks, Bool.and_eq_true] at h
  exact h.1.1

/-- A span that lost bytes to the cap fills SCRATCH (42_parser.md R166). -/
theorem length_spanRaw_of_overflows {mp : Nat} {region : List Byte}
    (h : spanOverflows mp region = true) : (spanRaw mp region).length = mp := by
  simp only [spanOverflows, decide_eq_true_eq] at h
  simp [spanRaw]; omega

theorem State.parse_cases (s : State) :
    s.parse = s.parseEmpty ∨ ∃ st second, s.parse = s.parseFrom st second := by
  unfold State.parse
  split
  · exact .inl rfl
  · exact .inr ⟨_, _, rfl⟩

theorem State.parseEmpty_agrees (s : State) (mp : Nat) : s.parseEmpty.Agrees mp where
  noPacket _ := ⟨rfl, rfl, rfl⟩
  valid h := nomatch h
  resync h := nomatch h
  cmdZero h := nomatch h
  overflow h := nomatch h
  empty := ⟨fun _ => rfl, fun _ => rfl⟩

/-- The outcomes with a START in the window: a valid packet, forced out or not; a RESYNC; a packet held
as invalid or incomplete (42_parser.md R169 to R172). -/
theorem State.parseFrom_agrees {s : State} (hmp : 3 ≤ s.cfg.maxPacket) (st : Nat)
    (second : Option Nat) : (s.parseFrom st second).Agrees s.cfg.maxPacket := by
  generalize hregion : (s.window.take (second.getD s.pending)).drop (st + 1) = region
  rw [State.parseFrom_eq hmp st second hregion]
  have hovf := length_spanRaw_of_overflows (mp := s.cfg.maxPacket) (region := region)
  have hpos : (spanRaw s.cfg.maxPacket region).length ≠ 0 :=
    Nat.ne_of_gt (length_spanRaw_pos (by omega) region)
  generalize spanRaw s.cfg.maxPacket region = raw at hovf hpos
  by_cases hv : rawValid raw = true
  · have hcz := rawCmdZero_eq_false hv
    cases second <;> simp only [hv] <;> exact
      { noPacket := nofun
        valid := fun _ => ⟨cmd_ne_zero_of_rawValid hv, hcz, rfl⟩
        resync := nofun
        cmdZero := fun h => absurd (hcz.symm.trans h) Bool.false_ne_true
        overflow := hovf
        empty := iff_of_false nofun hpos }
  · cases second with
    | some e =>
      simp only [hv]
      exact
        { noPacket := nofun
          valid := nofun
          resync := fun _ => ⟨rfl, rfl⟩
          cmdZero := fun _ => .inr rfl
          overflow := hovf
          empty := iff_of_false nofun hpos }
    | none =>
      by_cases hc : rawComplete raw = true <;> simp only [hv, hc] <;> exact
        { noPacket := fun _ => ⟨rfl, rfl, rfl⟩
          valid := nofun
          resync := nofun
          cmdZero := fun h => by simp_all [rawComplete_of_rawCmdZero h]
          overflow := hovf
          empty := iff_of_false nofun hpos }

theorem State.parse_agrees {s : State} (hmp : 3 ≤ s.cfg.maxPacket) :
    s.parse.Agrees s.cfg.maxPacket := by
  rcases s.parse_cases with h | ⟨st, second, h⟩ <;> rw [h]
  · exact s.parseEmpty_agrees _
  · exact State.parseFrom_agrees hmp st second

theorem noPacket_packStatus (c : PktCode) (f o r z : Bool) :
    noPacket (packStatus c f o r z) = true ↔ c = .empty ∨ c = .incomplete ∨ c = .heldInvalid := by
  simp [noPacket, (fields_packStatus c f o r z).1, or_assoc]

/-- The registers written from a parse agree where its fields do. -/
theorem State.resultsAgree_commitParse {s : State} {p : Parse} (hp : p.Agrees s.cfg.maxPacket)
    (hk : p.k < 512) : (s.commitParse p).ResultsAgree := by
  obtain ⟨hcode, hforced, hovf, hrec, hcz, -⟩ :=
    fields_packStatus p.code p.forced p.ovf p.recovered p.cmdZero
  have hcount : (BitVec.ofNat 9 p.k).toNat = p.k := Nat.mod_eq_of_lt hk
  have hzero : BitVec.ofNat 9 p.k = 0 ↔ p.k = 0 := by
    rw [← BitVec.toNat_inj, hcount]; rfl
  simp only [State.ResultsAgree, State.commitParse_pktStatus, State.commitParse_pktCmd,
    State.commitParse_pktLen, State.commitParse_pktCount, State.commitParse_cfg, Parse.status,
    noPacket_packStatus, hcode, hforced, hovf, hrec, hcz, PktCode.code_inj, hcount, hzero]
  exact ⟨hp.noPacket, hp.valid, hp.resync, hp.cmdZero, hp.overflow, hp.empty⟩

/-- Agreement is about the four registers and MAX_PACKET alone. -/
theorem State.ResultsAgree.of_keeps {s t : State} (h : s.ResultsAgree) (hres : KeepsResults s t)
    (hcfg : t.cfg = s.cfg) : t.ResultsAgree := by
  obtain ⟨hcmd, hlen, hcount, hstatus⟩ := hres
  rwa [State.ResultsAgree, hcmd, hlen, hcount, hstatus, hcfg]

/-! ## The obligations -/

/-- Settles O9: the reset state of the build is the witness. -/
theorem resetTableIsApplied : Obligations.ResetTableIsApplied := fun c n =>
  ⟨State.resetOf c n, rfl, rfl, rfl, rfl, rfl, rfl, rfl, rfl, rfl⟩

/-- Settles O12: the reset table makes every array empty and every register 0, and `Config.largest` is
legal. -/
theorem resetStatesAreGood : Obligations.ResetStatesAreGood :=
  ⟨fun c n hc => ⟨State.inv_resetOf hc n, State.resultsAgree_resetOf c n⟩,
    State.inv_resetOf Config.legal_largest 0, State.resultsAgree_resetOf _ 0⟩

/-- Settles O14: reset establishes the invariant, and every instruction keeps it. -/
theorem everyStepKeepsTheInvariant : Obligations.EveryStepKeepsTheInvariant := fun _ _ hs h =>
  step_keeps (fun _ line hs => hs.takeReset line) (fun _ port rq pq hs => hs.accepting port rq pq)
    (fun _ _ _ hs h => exec_keeps_inv hs h) hs h

/-- Settles O19, by the kind of row: five kinds write something besides the response, each only what is
named for it. -/
theorem onlyTheNamedOperationsWrite : Obligations.OnlyTheNamedOperationsWrite := by
  intro i s t h
  rcases exec_classes h with ⟨r, rfl⟩ | ⟨b, rfl⟩ | ⟨n, rfl⟩ | rfl | ⟨j, b, rfl⟩ | henc
  · obtain ⟨⟨hhead, htail⟩, hres, hlen, hsur, hsp⟩ := OnlyResponds.of_response s (some r)
    exact ⟨hsur, fun _ => ⟨hhead, hsp _⟩, fun _ _ => htail, fun _ => ⟨hsp _, hres⟩, fun _ => hsp _,
      fun _ => ⟨hlen, hsp _⟩⟩
  · obtain ⟨hsur, htail, hres, hlen, hscr, htd, htw⟩ := exec_rxWrite_keeps h
    exact ⟨hsur, fun hi => absurd rfl (hi b), fun _ _ => htail, fun _ => ⟨hscr, hres⟩, fun _ => htd,
      fun _ => ⟨hlen, htw⟩⟩
  · obtain ⟨hsur, hhead, hres, hlen, hsp⟩ := exec_rxAdvance_keeps h
    exact ⟨hsur, fun _ => ⟨hhead, hsp _⟩, fun hi => absurd rfl (hi n), fun _ => ⟨hsp _, hres⟩,
      fun _ => hsp _, fun _ => ⟨hlen, hsp _⟩⟩
  · obtain ⟨hhead, hlen, hsur, hrx, htd, htw⟩ := exec_decodeNext_keeps h
    exact ⟨hsur, fun _ => ⟨hhead, hrx⟩, fun _ hi => absurd rfl hi, fun hi => absurd rfl hi,
      fun _ => htd, fun _ => ⟨hlen, htw⟩⟩
  · obtain ⟨hsur, ⟨hhead, htail⟩, hres, hlen, hrx, hscr, htw⟩ := exec_txLoad_keeps h
    exact ⟨hsur, fun _ => ⟨hhead, hrx⟩, fun _ _ => htail, fun _ => ⟨hscr, hres⟩,
      fun hi => absurd rfl (hi j b), fun _ => ⟨hlen, htw⟩⟩
  · obtain ⟨hsur, ⟨hhead, htail⟩, hres, hrx, hscr, htd⟩ := exec_encoder_keeps henc h
    exact ⟨hsur, fun _ => ⟨hhead, hrx⟩, fun _ _ => htail, fun _ => ⟨hscr, hres⟩, fun _ => htd,
      fun hi => absurd henc (by simp [hi])⟩

/-- Only DECODE_NEXT writes the result registers, and what it writes agrees. -/
theorem exec_keeps_resultsAgree {i : Instr} {s t : State} (hs : s.Inv) (ha : s.ResultsAgree)
    (h : exec i s = .next t) : t.ResultsAgree := by
  by_cases hi : i = .decodeNext
  · subst hi
    obtain rfl := Host.Outcome.next.inj ((exec_decodeNext_eq s).symm.trans h)
    have hmp := hs.1.maxPacket_ge
    have hk : s.parse.k < 512 := by
      have hle := hs.1.maxPacket_le
      rcases (State.parse_bounds hs.1).1 with ⟨hk, -⟩ | ⟨raw, -, hlen, -, hk, -⟩ <;> omega
    exact State.resultsAgree_commitParse (State.parse_agrees (by omega)) hk
  · obtain ⟨⟨hcfg, -⟩, -, -, hkeeps, -⟩ := onlyTheNamedOperationsWrite i s t h
    exact ha.of_keeps (hkeeps hi).2 hcfg

/-- Settles O15: the two invariants together are kept by every step. -/
theorem everyStepKeepsResultsInAgreement : Obligations.EveryStepKeepsResultsInAgreement :=
  fun _ _ hs ha h =>
    (step_keeps (P := fun s => s.Inv ∧ s.ResultsAgree)
      (fun s line hs => ⟨hs.1.takeReset line, State.resultsAgree_resetOf s.cfg (s.epoch + 1)⟩)
      (fun _ _ _ _ hs => hs)
      (fun _ _ _ hs h => ⟨exec_keeps_inv hs.1 h, exec_keeps_resultsAgree hs.1 hs.2 h⟩)
      ⟨hs, ha⟩ h).2

end Sys2Proof.Machine
end

section
/-! The memory rules of 20_memory.md: which port a step serves (R59, R60), that reads repeat (R58), and
that an entry keeps its free draw until an operation writes it (R68). -/

namespace Sys2Proof.Machine

/-! ## Which port is served (20_memory.md R60) -/

section
variable {s : State} {r : Request} {rs : List Request} {w : RequestWord} {ws : List RequestWord}

theorem State.servedPort_requester (hr : s.requesterQ = r :: rs)
    (hp : s.producerQ = [] ∨ s.cfg.ports ≠ 2 ∨ Config.arbiter s.accepted = .requester) :
    s.servedPort = some .requester := by
  rcases hp with hp | hp | hp
  · simp only [State.servedPort, hr, hp]
  · cases hq : s.producerQ <;> simp only [State.servedPort, hr, hq, if_neg hp]
  · cases hq : s.producerQ <;> simp only [State.servedPort, hr, hq, hp, ite_self]

theorem State.servedPort_producer (hw : s.producerQ = w :: ws) (hports : s.cfg.ports = 2)
    (hr : s.requesterQ = [] ∨ Config.arbiter s.accepted = .producer) :
    s.servedPort = some .producer := by
  rcases hr with hr | hr
  · simp only [State.servedPort, hw, hr, if_pos hports]
  · cases hq : s.requesterQ <;> simp only [State.servedPort, hw, hq, if_pos hports, hr]

theorem State.servedPort_none (hr : s.requesterQ = []) (hp : s.producerQ = [] ∨ s.cfg.ports ≠ 2) :
    s.servedPort = none := by
  rcases hp with hp | hp
  · simp only [State.servedPort, hr, hp]
  · cases hq : s.producerQ <;> simp only [State.servedPort, hr, hq, if_neg hp]

/-- In every state one of the three conditions holds: nothing waits, the requester port is served, or
the producer port of a two-port build is. -/
theorem State.served_cases (s : State) :
    (s.requesterQ = [] ∧ (s.producerQ = [] ∨ s.cfg.ports ≠ 2)) ∨
    (∃ r rs, s.requesterQ = r :: rs ∧
      (s.producerQ = [] ∨ s.cfg.ports ≠ 2 ∨ Config.arbiter s.accepted = .requester)) ∨
    ∃ w ws, s.producerQ = w :: ws ∧ s.cfg.ports = 2 ∧
      (s.requesterQ = [] ∨ Config.arbiter s.accepted = .producer) := by
  cases hr : s.requesterQ with
  | nil =>
    cases hp : s.producerQ with
    | nil => exact .inl ⟨rfl, .inl rfl⟩
    | cons w ws =>
      by_cases hports : s.cfg.ports = 2
      · exact .inr (.inr ⟨w, ws, rfl, hports, .inl rfl⟩)
      · exact .inl ⟨rfl, .inr hports⟩
  | cons r rs =>
    cases hp : s.producerQ with
    | nil => exact .inr (.inl ⟨r, rs, rfl, .inl rfl⟩)
    | cons w ws =>
      by_cases hports : s.cfg.ports = 2
      · cases harb : Config.arbiter s.accepted with
        | requester => exact .inr (.inl ⟨r, rs, rfl, .inr (.inr rfl)⟩)
        | producer => exact .inr (.inr ⟨w, ws, rfl, hports, .inr rfl⟩)
      · exact .inr (.inl ⟨r, rs, rfl, .inr (.inl hports)⟩)

/-! ## Accepting from the served port (20_memory.md R59) -/

theorem State.accept_requester (hport : s.servedPort = some .requester)
    (hr : s.requesterQ = r :: rs) :
    s.accept = some ⟨(decode r).1, s.accepting .requester ((decode r).2 ++ rs) s.producerQ⟩ := by
  simp only [State.accept, hport, hr, State.accepting]

theorem State.accept_producer (hport : s.servedPort = some .producer) (hw : s.producerQ = w :: ws) :
    s.accept = some ⟨decodeProducer w, s.accepting .producer s.requesterQ ws⟩ := by
  simp only [State.accept, hport, hw, State.accepting]

theorem State.accept_none (hport : s.servedPort = none) : s.accept = none := by
  simp only [State.accept, hport]

/-! ## One step with reset released -/

theorem step_of_accept {a : Accepted} (hline : s.resetLine = false) (ha : s.accept = some a) :
    step s = exec a.instr a.state := by
  simp only [step, hline, ha, Bool.false_eq_true, if_false]

theorem step_of_accept_none (hline : s.resetLine = false) (hnone : s.accept = none) :
    step s = .next s := by
  simp only [step, hline, hnone, Bool.false_eq_true, if_false]

end

section
variable {i : Instr} {s t : State}

theorem exec_keeps_surroundings (h : exec i s = .next t) : KeepsSurroundings s t :=
  (onlyTheNamedOperationsWrite i s t h).1

/-! ## Reads (20_memory.md R58) -/

/-- No instruction looks at the response of the one before: it only answers its own. -/
theorem exec_of_response (i : Instr) (s : State) (r : Option Response) :
    exec i { s with response := r } = exec i s := by
  cases i <;> rfl

/-- An instruction that changes nothing but the response can be performed again with the same result. -/
theorem exec_again {r : Option Response} (h : exec i s = .next { s with response := r }) :
    exec i { s with response := r } = .next { s with response := r } :=
  (exec_of_response i s r).trans h

/-! ## Written bytes stay written (20_memory.md R68) -/

/-- One byte of FILL_SCRATCH takes no written byte away, whether or not it gives output. -/
theorem read_eq_none_of_fillByte {mp k : Nat} {f : Fill} {x : Byte}
    (h : (fillByte mp f x).scratch.read k = none) : f.scratch.read k = none := by
  unfold fillByte at h
  split at h
  · split at h
    · exact Memory.read_eq_none_of_write h
    · exact h
  · exact h

theorem read_eq_none_of_foldl_fillByte {mp k : Nat} (region : List Byte) {f : Fill}
    (h : (region.foldl (fillByte mp) f).scratch.read k = none) : f.scratch.read k = none := by
  induction region generalizing f with
  | nil => exact h
  | cons x xs ih => exact read_eq_none_of_fillByte (ih h)

theorem read_eq_none_of_fillScratch {mp k : Nat} {m : Memory} {region : List Byte}
    (h : (fillScratch mp m region).scratch.read k = none) : m.read k = none :=
  Memory.read_eq_none_of_write (read_eq_none_of_foldl_fillByte region h)

theorem State.parseFrom_scratch (s : State) (st : Nat) (second : Option Nat) :
    (s.parseFrom st second).scratch = (fillScratch s.cfg.maxPacket s.scratch
      ((s.window.take (second.getD s.pending)).drop (st + 1))).scratch := by
  cases second with
  | some e => rfl
  | none => simp only [State.parseFrom, apply_ite Parse.scratch, ite_self]

/-- A parse leaves SCRATCH alone or fills it; either way it takes no written byte away. -/
theorem State.read_eq_none_of_parse {k : Nat} (h : s.parse.scratch.read k = none) :
    s.scratch.read k = none := by
  rcases s.parse_cases with hp | ⟨st, second, hp⟩ <;> rw [hp] at h
  · exact h
  · rw [State.parseFrom_scratch] at h
    exact read_eq_none_of_fillScratch h

theorem State.read_eq_none_of_encodeChecked {cmd len delta : Byte} {sp : Space} {k : Nat}
    (h : ((s.encodeChecked cmd len delta).mem sp).read k = none) : (s.mem sp).read k = none := by
  rcases s.encodeChecked_cases cmd len delta with ⟨-, he⟩ | ⟨-, -, he⟩ | ⟨-, -, he⟩ <;> rw [he] at h
  · cases sp <;> exact h
  · cases sp <;> exact h
  · cases sp with
    | txWire => exact Memory.read_eq_none_of_writeList h
    | rxbuf | scratch | txData => exact h

/-- No instruction takes a written byte away: an entry unwritten after it was unwritten before. -/
theorem exec_read_eq_none {sp : Space} {k : Nat} (h : exec i s = .next t)
    (hk : (t.mem sp).read k = none) : (s.mem sp).read k = none := by
  rcases exec_classes h with ⟨r, rfl⟩ | ⟨b, rfl⟩ | ⟨n, rfl⟩ | rfl | ⟨j, b, rfl⟩ | henc
  · cases sp <;> exact hk
  · rcases exec_rxWrite_cases h with ⟨-, rfl⟩ | ⟨-, n, rfl⟩
    · cases sp <;> exact hk
    · cases sp with
      | rxbuf => exact Memory.read_eq_none_of_write hk
      | scratch | txData | txWire => exact hk
  · rcases exec_rxAdvance_cases h with ⟨-, rfl⟩ | ⟨-, -, rfl⟩ <;> cases sp <;> exact hk
  · obtain rfl := Host.Outcome.next.inj ((exec_decodeNext_eq s).symm.trans h)
    cases sp with
    | scratch => exact State.read_eq_none_of_parse hk
    | rxbuf | txData | txWire => exact hk
  · rcases exec_txLoad_cases h with ⟨-, rfl⟩ | ⟨-, rfl⟩
    · cases sp with
      | txData => exact Memory.read_eq_none_of_write hk
      | rxbuf | scratch | txWire => exact hk
    · cases sp <;> exact hk
  · obtain ⟨cmd, len, delta, he⟩ := exec_of_runsEncoder henc s
    obtain rfl := Host.Outcome.next.inj (he.symm.trans h)
    exact State.read_eq_none_of_encodeChecked hk

theorem State.readByte_of_unwritten {sp : Space} {k : Nat} (h : (s.mem sp).read k = none) :
    s.readByte sp k = Config.freeByte s.epoch sp k := by
  rw [State.readByte, cellAt, h, Option.getD_none]

end

/-! ## The obligations -/

/-- Settles O5: the served port is the one the hypotheses name, and its oldest request is accepted. -/
theorem stepRunsTheAcceptedRequest : Obligations.StepRunsTheAcceptedRequest :=
  ⟨fun _ _ _ hline hr hp =>
      step_of_accept hline (State.accept_requester (State.servedPort_requester hr hp) hr),
    fun _ _ _ hline hw hports hr =>
      step_of_accept hline (State.accept_producer (State.servedPort_producer hw hports hr) hw)⟩

/-- Settles O6: no port is served, so nothing is accepted. -/
theorem idleStepChangesNothing : Obligations.IdleStepChangesNothing := fun _ hline hr hp =>
  step_of_accept_none hline (State.accept_none (State.servedPort_none hr hp))

/-- Settles O7, by what the step serves: O5 and O6 say what it runs, and no instruction touches the
queues, the noted port or the count. -/
theorem portsAreServedInOrder : Obligations.PortsAreServedInOrder := by
  intro s t hline h
  rcases s.served_cases with ⟨hr, hp⟩ | ⟨r, rs, hr, hp⟩ | ⟨w, ws, hw, hports, hr⟩
  · rw [idleStepChangesNothing s hline hr hp] at h
    exact .inl ⟨(Host.Outcome.next.inj h).symm, hr, hp⟩
  · rw [stepRunsTheAcceptedRequest.1 s r rs hline hr hp] at h
    obtain ⟨-, hfrom, hrq, hpq, hcount, -⟩ := exec_keeps_surroundings h
    exact .inr (.inr ⟨hcount, hfrom, hpq, r, rs, hr, hrq⟩)
  · rw [stepRunsTheAcceptedRequest.2 s w ws hline hw hports hr] at h
    obtain ⟨-, hfrom, hrq, hpq, hcount, -⟩ := exec_keeps_surroundings h
    exact .inr (.inl ⟨hcount, hfrom, hports, hrq, w, hpq ▸ hw⟩)

/-- Settles O10: the reset state lists no byte, and an entry unwritten after an instruction was
unwritten before it, in the same reset epoch. -/
theorem unwrittenEntriesReadTheirFreeDraw : Obligations.UnwrittenEntriesReadTheirFreeDraw := by
  refine ⟨fun c n index => ⟨_, rfl, rfl⟩, fun i s t sp k h hk => ?_⟩
  obtain ⟨-, -, -, -, -, -, hepoch⟩ := exec_keeps_surroundings h
  rw [State.readByte_of_unwritten hk, State.readByte_of_unwritten (exec_read_eq_none h hk), hepoch]

/-- Settles O20: the seven reads are none of the rows that write, so each changes the response alone, and
the response is what no instruction looks at. -/
theorem readsAreRepeatable : Obligations.ReadsAreRepeatable := by
  intro i s t hi h
  have hresp : ∃ r, t = { s with response := some r } := by
    rcases exec_classes h with hr | hwrites
    · exact hr
    · rcases hi with rfl | ⟨o, rfl⟩ | ⟨j, rfl⟩ | ⟨j, rfl⟩ | ⟨j, rfl⟩ | ⟨raw, rfl⟩ | ⟨w, e, rfl⟩ <;>
        simp [runsEncoder] at hwrites
  obtain ⟨r, rfl⟩ := hresp
  exact ⟨OnlyResponds.of_response s (some r), exec_again h⟩

end Sys2Proof.Machine
end

section
/-! The rows of the opcode table as requests: decoding an encoded instruction (30_encoding.md R70, R71,
R74, R78 to R80), and the operand bits of a request word that its operation uses (R80 to R82). -/

namespace Sys2Proof.Machine

/-! ## Decode of encode -/

/-- Settles O1, row by row: each row's operands are read back from the fields they were put in. -/
theorem decodeOfEncodeIsTheInstruction : Obligations.DecodeOfEncodeIsTheInstruction
  | .encByte raw => Laws.RoundTrip.encByte raw
  | .decByte wire escIn => Laws.RoundTrip.decByte wire escIn
  | .rxWrite byte => Laws.RoundTrip.rxWrite byte
  | .rxPending => Laws.RoundTrip.rxPending
  | .rxPeek offset => Laws.RoundTrip.rxPeek offset
  | .rxReadAt index => Laws.RoundTrip.rxReadAt index
  | .rxAdvance newTail => Laws.RoundTrip.rxAdvance newTail
  | .decodeNext => Laws.RoundTrip.decodeNext
  | .scratchRead i => Laws.RoundTrip.scratchRead i
  | .txLoad i byte => Laws.RoundTrip.txLoad i byte
  | .encode cmd len delta => Laws.RoundTrip.encode cmd len delta
  | .txRead i => Laws.RoundTrip.txRead i
  | .illegal op => Laws.RoundTrip.illegal op
  | .start => Laws.RoundTrip.start
  | .escape => Laws.RoundTrip.escape
  | .literal value => Laws.RoundTrip.literal value
  | .escStart => Laws.RoundTrip.escStart
  | .escEscape => Laws.RoundTrip.escEscape
  | .escPair x => Laws.RoundTrip.escPair x
  | .cmdReservedZero len => Laws.RoundTrip.cmdReservedZero len
  | .cmdScanReport len => Laws.RoundTrip.cmdScanReport len
  | .cmdSetLed len => Laws.RoundTrip.cmdSetLed len
  | .cmdAutoscanOn len => Laws.RoundTrip.cmdAutoscanOn len
  | .cmdAutoscanOff len => Laws.RoundTrip.cmdAutoscanOff len
  | .cmdVendor06 len => Laws.RoundTrip.cmdVendor06 len
  | .cmdVendor07 len => Laws.RoundTrip.cmdVendor07 len
  | .cmdVendor09 len => Laws.RoundTrip.cmdVendor09 len
  | .cmdVendor0A len => Laws.RoundTrip.cmdVendor0A len
  | .cmdVendor0B len => Laws.RoundTrip.cmdVendor0B len
  | .cmdVendor0C len => Laws.RoundTrip.cmdVendor0C len
  | .cmdDetect len => Laws.RoundTrip.cmdDetect len
  | .cmdException len => Laws.RoundTrip.cmdException len
  | .cmdBoardInfo len => Laws.RoundTrip.cmdBoardInfo len
  | .cmdOther cmd len => Laws.RoundTrip.cmdOther cmd len

/-! ## A request word and its fields (30_encoding.md R78) -/

theorem requestWord_fields (w : RequestWord) :
    requestWord (fieldOp w) (fieldA w) (fieldB w) (fieldC w) = w := by
  apply BitVec.eq_of_getLsbD_eq
  intro i hi
  simp only [Laws.getLsbD_requestWord, fieldOp, fieldA, fieldB, fieldC, BitVec.getLsbD_extractLsb']
  grind

theorem requestWord_and (op a b c op' a' b' c' : Byte) :
    requestWord op a b c &&& requestWord op' a' b' c' =
      requestWord (op &&& op') (a &&& a') (b &&& b') (c &&& c') := by
  apply BitVec.eq_of_getLsbD_eq
  intro i _
  simp only [Laws.getLsbD_requestWord, BitVec.getLsbD_and]
  split_ifs <;> rfl

/-- A mask acts on each field of a word on its own. -/
theorem and_requestWord (w : RequestWord) (op a b c : Byte) :
    w &&& requestWord op a b c =
      requestWord (fieldOp w &&& op) (fieldA w &&& a) (fieldB w &&& b) (fieldC w &&& c) := by
  rw [← requestWord_and, requestWord_fields]

@[simp] theorem byte_and_mask (b : Byte) : b &&& 255#8 = b := BitVec.and_allOnes

theorem byte_and_one (b : Byte) : b &&& 1#8 = flagByte (b.getLsbD 0) := by revert b; decide

/-! ## The used operand bits, shape by shape (30_encoding.md R80) -/

section
variable (w : RequestWord)

theorem and_opMask : w &&& 0x000000FF = requestWord (fieldOp w) 0 0 0 :=
  (and_requestWord w 0xFF 0 0 0).trans (by simp)

theorem and_aMask : w &&& 0x0000FFFF = requestWord (fieldOp w) (fieldA w) 0 0 :=
  (and_requestWord w 0xFF 0xFF 0 0).trans (by simp)

theorem and_aFlagMask :
    w &&& 0x0001FFFF = requestWord (fieldOp w) (fieldA w) (flagByte (fieldB0 w)) 0 :=
  (and_requestWord w 0xFF 0xFF 0x01 0).trans (by simp [byte_and_one, Laws.fieldB0_eq])

theorem and_abMask : w &&& 0x00FFFFFF = requestWord (fieldOp w) (fieldA w) (fieldB w) 0 :=
  (and_requestWord w 0xFF 0xFF 0xFF 0).trans (by simp)

theorem and_abcMask :
    w &&& 0xFFFFFFFF = requestWord (fieldOp w) (fieldA w) (fieldB w) (fieldC w) :=
  (and_requestWord w 0xFF 0xFF 0xFF 0xFF).trans (by simp)

end

/-! ## The 9-bit index of TX_READ -/

theorem extractLsb'_fieldIndex9 (w : RequestWord) : (fieldIndex9 w).extractLsb' 0 8 = fieldA w :=
  BitVec.extractLsb'_append_eq_right

theorem getLsbD_fieldIndex9 (w : RequestWord) : (fieldIndex9 w).getLsbD 8 = fieldB0 w :=
  (BitVec.getLsbD_append (x := BitVec.ofBool (fieldB0 w)) (y := fieldA w)).trans (by simp)

/-! ## The requester port's decoder (30_encoding.md R79 to R82) -/

theorem illegalOp_iff {op : Byte} : illegalOp op = true ↔ op = 0x00 ∨ 0x0D ≤ op.toNat := by
  simp [illegalOp]

/-- The OP values of the twelve operations are 1 .. 12; every other one is ILLEGAL. -/
theorem illegalOp_of_notNamed {op : Byte} (h : ¬(1 ≤ op.toNat ∧ op.toNat ≤ 12)) :
    illegalOp op = true := by
  have hzero : op = 0x00 ↔ op.toNat = 0 := BitVec.toNat_inj.symm
  rw [illegalOp_iff, hzero]
  omega

theorem usedBits_of_illegalOp : ∀ op : Byte, illegalOp op = true → usedBits op = 0x000000FF := by
  decide

theorem wf_decodeRequest (w : RequestWord) : (decodeRequest w).wf = true := by
  unfold decodeRequest
  split
  case h_13 => exact illegalOp_of_notNamed (by grind)
  all_goals rfl

/-- Where `mask` covers the used bits of an operation and keeps these fields, the word built from the
operation and the fields is the request word cut to its used bits. -/
theorem requestWord_eq_and_usedBits {w mask : RequestWord} {op a b c : Byte}
    (hop : (fieldOp w).toNat = op.toNat) (hused : usedBits op = mask)
    (hmask : w &&& mask = requestWord (fieldOp w) a b c) :
    Request.op (requestWord op a b c) = .op (w &&& usedBits (fieldOp w)) := by
  obtain rfl := BitVec.eq_of_toNat_eq hop
  rw [hused, hmask]

theorem encode_decodeRequest (w : RequestWord) :
    encode (decodeRequest w) = .op (w &&& usedBits (fieldOp w)) := by
  unfold decodeRequest
  split
  case h_1 h => exact requestWord_eq_and_usedBits h rfl (and_aMask w)
  case h_2 h => exact requestWord_eq_and_usedBits h rfl (and_aFlagMask w)
  case h_3 h => exact requestWord_eq_and_usedBits h rfl (and_aMask w)
  case h_4 h => exact requestWord_eq_and_usedBits h rfl (and_opMask w)
  case h_5 h => exact requestWord_eq_and_usedBits h rfl (and_aMask w)
  case h_6 h => exact requestWord_eq_and_usedBits h rfl (and_aMask w)
  case h_7 h => exact requestWord_eq_and_usedBits h rfl (and_aMask w)
  case h_8 h => exact requestWord_eq_and_usedBits h rfl (and_opMask w)
  case h_9 h => exact requestWord_eq_and_usedBits h rfl (and_aMask w)
  case h_10 h => exact requestWord_eq_and_usedBits h rfl (and_abMask w)
  case h_11 h => exact requestWord_eq_and_usedBits h rfl (and_abcMask w)
  case h_12 h =>
    rw [encode, extractLsb'_fieldIndex9, getLsbD_fieldIndex9]
    exact requestWord_eq_and_usedBits h rfl (and_aFlagMask w)
  case h_13 =>
    have hill : illegalOp (fieldOp w) = true := illegalOp_of_notNamed (by grind)
    exact requestWord_eq_and_usedBits rfl (usedBits_of_illegalOp _ hill) (and_opMask w)

/-- A request word is decoded as the word cut to its used bits is: its instruction is well-formed, so
it is the decoding of its own encoding. -/
theorem decodeRequest_eq_of_used {w w' : RequestWord}
    (h : w &&& usedBits (fieldOp w) = w' &&& usedBits (fieldOp w')) :
    decodeRequest w = decodeRequest w' := by
  have henc : encode (decodeRequest w) = encode (decodeRequest w') := by
    rw [encode_decodeRequest, encode_decodeRequest, h]
  have hdec := decodeOfEncodeIsTheInstruction _ (wf_decodeRequest w)
  rw [henc, decodeOfEncodeIsTheInstruction _ (wf_decodeRequest w')] at hdec
  exact (congrArg Prod.fst hdec).symm

/-- An illegal OP uses none of its operand bits (30_encoding.md R82). -/
theorem decodeRequest_of_illegalOp {op : Byte} (hill : illegalOp op = true) (a b c : Byte) :
    decodeRequest (requestWord op a b c) = .illegal op := by
  have hused : requestWord op a b c &&& usedBits op = requestWord op 0 0 0 &&& usedBits op := by
    rw [usedBits_of_illegalOp op hill, and_opMask, and_opMask]
    simp only [Laws.fieldOp_requestWord]
  have hzero : decodeRequest (requestWord op 0 0 0) = .illegal op :=
    congrArg Prod.fst (decodeOfEncodeIsTheInstruction (.illegal op) hill)
  rw [← hzero]
  exact decodeRequest_eq_of_used (by simpa only [Laws.fieldOp_requestWord] using hused)

/-! ## The obligations -/

/-- Settles O2: encoding keeps exactly the used bits, and decoding goes through that encoding. -/
theorem onlyUsedOperandBitsMatter : Obligations.OnlyUsedOperandBitsMatter :=
  ⟨encode_decodeRequest, fun _ _ hop hused => decodeRequest_eq_of_used (hop ▸ hused)⟩

/-- Settles O3: each word is decoded by evaluation. -/
theorem writtenOutWordsDecode : Obligations.WrittenOutWordsDecode :=
  ⟨rfl, rfl, rfl, rfl, rfl, rfl, rfl, rfl, rfl, rfl, rfl, rfl, rfl⟩

/-- Settles O4: an illegal OP ignores the operand bytes, and ILLEGAL only raises. -/
theorem illegalOpcodeIsRefusedWithoutEffect : Obligations.IllegalOpcodeIsRefusedWithoutEffect :=
  ⟨fun _ a b c h => decodeRequest_of_illegalOp (illegalOp_iff.mpr h) a b c,
    fun _ s => ⟨_, rfl, Raised.raise .illegalOp s⟩⟩

end Sys2Proof.Machine
end

section
/-! The wire rows and the command rows of the opcode table (30_encoding.md R70 to R75, R88), and what
SEND_CORRUPT answers (R87). -/

namespace Sys2Proof.Machine

/-! ## The wire rows run the stream decoder (40_codec.md R102, R103) -/

theorem State.answered_decStep (s : State) (wire : Byte) (escIn : Bool) :
    Answered (s.decStep wire escIn) .ok (dec wire escIn).raw
      (packDecFlags (wire == START) (dec wire escIn).escOut (dec wire escIn).hasOut) 0 0 := rfl

/-- HAS_OUT alone is bit 0 of the flags. -/
theorem packDecFlags_hasOut : packDecFlags false false true = 0x01 := by decide

/-- Any byte but START and ESCAPE stands for itself (30_encoding.md R70). -/
theorem State.answered_decStep_literal (s : State) {v : Byte} (hstart : v ≠ START)
    (hesc : v ≠ ESCAPE) : Answered (s.decStep v false) .ok v 0x01 0 0 := by
  have h := s.answered_decStep v false
  rwa [dec_of_literal hesc, beq_false_of_ne hstart, packDecFlags_hasOut] at h

/-- A pair answers its second byte plus one; a second byte that is no START is no boundary
(30_encoding.md R71, R88). -/
theorem State.answered_decPair (s : State) {x : Byte} (hstart : x ≠ START) :
    Answered (s.decPair x) .ok (x + 1) 0x01 0 0 := by
  have h := (s.decStep ESCAPE false).answered_decStep x true
  rwa [dec_of_pending, beq_false_of_ne hstart, packDecFlags_hasOut] at h

/-- Settles O26: each row is one decoder step or a pair of them. -/
theorem wireRowsAnswerTheirDecoding : Obligations.WireRowsAnswerTheirDecoding := by
  intro s
  have hpair : ∀ x : Byte, x ≠ START → OnlyResponds s (s.decPair x) ∧
      Answered (s.decPair x) .ok (x + 1) 0x01 0 0 := fun x hx =>
    ⟨OnlyResponds.decPair s x, s.answered_decPair hx⟩
  exact ⟨⟨_, rfl, OnlyResponds.decStep s START false, rfl⟩,
    ⟨_, rfl, OnlyResponds.decStep s ESCAPE false, rfl⟩, fun v hstart hesc =>
      ⟨_, rfl, OnlyResponds.decStep s v false, s.answered_decStep_literal hstart hesc⟩,
    ⟨_, rfl, hpair 0xFE (by decide)⟩, ⟨_, rfl, hpair 0xFC (by decide)⟩,
    fun x hx => ⟨_, rfl, hpair x hx⟩⟩

/-! ## The command rows run the encoder (43_encoder.md R201) -/

/-- An accepted command and length are serialised (43_encoder.md R201). -/
theorem State.encodeChecked_of_accepted {s : State} {cmd len : Byte} (delta : Byte)
    (hcmd : cmd ≠ 0x00) (hlen : len.toNat ≤ s.cfg.maxData) :
    s.encodeChecked cmd len delta = s.encodePacket cmd len delta := by
  rcases s.encodeChecked_cases cmd len delta with ⟨hzero, -⟩ | ⟨-, hlong, -⟩ | ⟨-, -, he⟩
  · exact absurd hzero hcmd
  · omega
  · exact he

theorem Encodes.encodeChecked {s : State} {cmd len : Byte} (delta : Byte) (hc : s.cfg.Legal)
    (hcmd : cmd ≠ 0x00) (hlen : len.toNat ≤ s.cfg.maxData) :
    Encodes cmd len delta s (s.encodeChecked cmd len delta) := by
  rw [State.encodeChecked_of_accepted delta hcmd hlen]
  exact Encodes.encodePacket hc delta hlen

/-- Settles O52: each row is the encoder on its own command, which is not 0x00. -/
theorem commandRowsEncodeTheirCommand : Obligations.CommandRowsEncodeTheirCommand := by
  intro len s hc hlen
  have henc : ∀ cmd : Byte, cmd ≠ 0x00 → Encodes cmd len 0 s (s.encodeChecked cmd len 0) :=
    fun _ hcmd => Encodes.encodeChecked 0 hc hcmd hlen
  exact ⟨⟨_, rfl, henc 0x01 (by decide)⟩, ⟨_, rfl, henc 0x02 (by decide)⟩,
    ⟨_, rfl, henc 0x03 (by decide)⟩, ⟨_, rfl, henc 0x04 (by decide)⟩,
    ⟨_, rfl, henc 0x06 (by decide)⟩, ⟨_, rfl, henc 0x07 (by decide)⟩,
    ⟨_, rfl, henc 0x09 (by decide)⟩, ⟨_, rfl, henc 0x0A (by decide)⟩,
    ⟨_, rfl, henc 0x0B (by decide)⟩, ⟨_, rfl, henc 0x0C (by decide)⟩,
    ⟨_, rfl, henc 0x10 (by decide)⟩, ⟨_, rfl, henc 0xEE (by decide)⟩,
    ⟨_, rfl, henc 0xF0 (by decide)⟩, fun cmd hcmd => ⟨_, rfl, henc cmd hcmd⟩⟩

/-- Settles O53: the encoder refuses command 0x00 before it looks at the length. -/
theorem reservedCommandIsRefused : Obligations.ReservedCommandIsRefused := fun _ s =>
  ⟨_, rfl, Raised.raise .encCmd s⟩

end Sys2Proof.Machine
end

section
/-! What SEND_CORRUPT answers (30_encoding.md R87, 43_encoder.md R202 to R204): the payload is staged by
TX_LOADs, serialised by ENCODE and read out by TX_READs. -/

namespace Sys2Proof.Machine

/-! ## Frames compose -/

section
variable {s t u : State}

theorem KeepsCursors.trans (h : KeepsCursors s t) (h' : KeepsCursors t u) : KeepsCursors s u := by
  obtain ⟨hhead, htail⟩ := h
  rwa [KeepsCursors, ← hhead, ← htail]

theorem KeepsResults.trans (h : KeepsResults s t) (h' : KeepsResults t u) : KeepsResults s u := by
  obtain ⟨hcmd, hlen, hcount, hstatus⟩ := h
  rwa [KeepsResults, ← hcmd, ← hlen, ← hcount, ← hstatus]

theorem KeepsSurroundings.trans (h : KeepsSurroundings s t) (h' : KeepsSurroundings t u) :
    KeepsSurroundings s u := by
  obtain ⟨hcfg, hfrom, hrq, hpq, hcount, hline, hepoch⟩ := h
  rwa [KeepsSurroundings, ← hcfg, ← hfrom, ← hrq, ← hpq, ← hcount, ← hline, ← hepoch]

theorem KeepsSpace.trans {sp : Space} (h : KeepsSpace sp s t) (h' : KeepsSpace sp t u) :
    KeepsSpace sp s u := fun i => (h' i).trans (h i)

/-- The last frame is read off TXWIRE and TX_LEN alone. -/
theorem OnlyResponds.wireBytes (h : OnlyResponds s t) : t.wireBytes = s.wireBytes := by
  obtain ⟨-, -, hlen, -, hsp⟩ := h
  rw [State.wireBytes, State.wireBytes, hlen]
  exact State.readSlice_congr _ _ fun j _ => hsp .txWire (0 + j)

theorem KeepsSpace.readSlice {sp : Space} (h : KeepsSpace sp s t) (i n : Nat) :
    t.readSlice sp i n = s.readSlice sp i n := State.readSlice_congr i n fun j _ => h (i + j)

/-! ## The three phases -/

/-- The frame an accepted ENCODE leaves to be read (43_encoder.md R202). -/
theorem Encodes.wireBytes {cmd len delta : Byte} (h : Encodes cmd len delta s t) :
    t.wireBytes = frame cmd len (s.readSlice .txData 0 len.toNat)
      (packetChk cmd len (s.readSlice .txData 0 len.toNat) + delta) := by
  obtain ⟨hwire, -, hlen, -⟩ := h
  rw [State.wireBytes, hlen]
  exact State.readSlice_eq_of fun j hj => by rw [Nat.zero_add]; exact hwire j hj

/-- `s` after the TX_LOADs of a payload: it is in TXDATA from entry 0 on, and the last of them has
answered `r`. -/
def State.stagePayload (s : State) (data : List Byte) (r : Option Response) : State :=
  { s with txData := s.txData.writeList 0 data, response := r }

theorem State.readSlice_stagePayload (s : State) (data : List Byte) (r : Option Response) :
    (s.stagePayload data r).readSlice .txData 0 data.length = data :=
  State.readSlice_eq_of fun j hj => by
    rw [Nat.zero_add]
    exact cellAt_writeList_of_lt _ _ _ data hj

theorem State.readByte_stagePayload_of_ge (s : State) {data : List Byte} (r : Option Response)
    {j : Nat} (h : data.length ≤ j) :
    (s.stagePayload data r).readByte .txData j = s.readByte .txData j :=
  cellAt_writeList_of_ge _ _ _ data h

/-- The length of an accepted payload fits ENCODE's operand (00_scope.md R6, R7). -/
theorem toNat_ofNat_length {c : Config} {data : List Byte} (hc : c.Legal)
    (hdata : data.length ≤ c.maxData) : (BitVec.ofNat 8 data.length).toNat = data.length := by
  obtain ⟨-, ⟨-, hmp⟩, -⟩ := hc
  unfold Config.maxData at hdata
  exact Nat.mod_eq_of_lt (by omega)

/-- The requests of SEND_CORRUPT up to ENCODE stage an accepted payload and serialise it. -/
theorem execAll_encodeRequests {cmd : Byte} {data : List Byte} (delta : Byte) (hc : s.cfg.Legal)
    (hcmd : cmd ≠ 0x00) (hdata : data.length ≤ s.cfg.maxData) :
    ∃ t r, execAll (encodeRequests cmd data delta) s = .next t ∧
      Encodes cmd (BitVec.ofNat 8 data.length) delta (s.stagePayload data r) t := by
  have hlen := toNat_ofNat_length hc hdata
  have hbyte := (BitVec.ofNat 8 data.length).isLt
  obtain ⟨u, r, hload, rfl⟩ := execAll_loadPayload data 0 (s := s) (by omega) (by omega)
  exact ⟨_, r, execAll_append _ _ hload, Encodes.encodeChecked delta hc hcmd (hlen.trans_le hdata)⟩

/-- TX_READ of every entry below TX_LEN answers the last frame. -/
theorem readFrame_wireBytes (s : State) :
    ∃ t, readFrame 0 s.txLen.toNat s = some (s.wireBytes, t) ∧ OnlyResponds s t :=
  readFrame_eq 0 _ (by omega)

end

/-- Settles O60, phase by phase: the bytes answered are the frame ENCODE left, and the TX_READs change
nothing but the response. -/
theorem sendAnswersTheFrame : Obligations.SendAnswersTheFrame := by
  refine ⟨fun cmd delta data s hc hcmd hdata => ?_, fun _ _ _ => rfl⟩
  obtain ⟨t, r, hexec, henc⟩ := execAll_encodeRequests delta hc hcmd hdata
  obtain ⟨v, hread, hresp⟩ := readFrame_wireBytes t
  have hwire := henc.wireBytes
  rw [toNat_ofNat_length hc hdata, State.readSlice_stagePayload] at hwire
  obtain ⟨-, -, -, -, hcur, hres, hsur, hrx, hscr, htd⟩ := henc
  have hsent := OnlyResponds.wireBytes hresp
  obtain ⟨hcur', hres', -, hsur', hsp'⟩ := hresp
  have htxData : KeepsSpace .txData (s.stagePayload data r) v := KeepsSpace.trans htd (hsp' .txData)
  refine ⟨v, t.wireBytes, hwire, ?_, hsent,
    (KeepsSpace.readSlice htxData 0 _).trans (s.readSlice_stagePayload data r),
    fun j hj => (htxData j).trans (s.readByte_stagePayload_of_ge r hj),
    KeepsCursors.trans (s := s) hcur hcur', KeepsResults.trans (s := s) hres hres',
    KeepsSurroundings.trans (s := s) hsur hsur', KeepsSpace.trans (s := s) hrx (hsp' .rxbuf),
    KeepsSpace.trans (s := s) hscr (hsp' .scratch)⟩
  rw [sendCorrupt, hexec]
  exact hread

end Sys2Proof.Machine
end

section
/-! The codec (40_codec.md): sequences of stuffings and what the stream decoder makes of them (R104,
R108, R109), the closed forms of the checksum (R106), and the two operations that expose one stuffing
and one decoder step (R101, R103). -/

namespace Sys2Proof.Machine

/-! ## Stuffed sequences -/

theorem length_stuff (b : Byte) :
    (stuff b).length = 1 + if b == START || b == ESCAPE then 1 else 0 := by
  by_cases h : b = START ∨ b = ESCAPE <;> simp [stuff, h]

theorem length_stuffSeq (seq : List Byte) :
    (stuffSeq seq).length = seq.length + seq.countP (fun b => b == START || b == ESCAPE) := by
  induction seq with
  | nil => rfl
  | cons b bs ih =>
    rw [stuffSeq_cons, List.length_append, length_stuff, ih, List.countP_cons, List.length_cons]
    omega

theorem start_notMem_stuffSeq (seq : List Byte) : START ∉ stuffSeq seq := by
  intro hmem
  obtain ⟨b, -, hb⟩ := List.mem_flatMap.mp hmem
  exact start_notMem_stuff b hb

/-- The decoder takes a stuffed sequence off the front of a region and is left with no pending
escape. -/
theorem unstuffFrom_stuffSeq_append (seq rest : List Byte) :
    unstuffFrom false (stuffSeq seq ++ rest) = seq ++ unstuffFrom false rest := by
  induction seq with
  | nil => rfl
  | cons b bs ih =>
    rw [stuffSeq_cons, List.append_assoc, unstuffFrom_stuff_append, ih, List.cons_append]

theorem unstuff_stuffSeq (seq : List Byte) : unstuff (stuffSeq seq) = seq := by
  have h := unstuffFrom_stuffSeq_append seq []
  rwa [List.append_nil, unstuffFrom_nil, List.append_nil] at h

/-! ## The checksum in closed form (40_codec.md R106) -/

theorem toNat_chk (seq : List Byte) :
    ((chk seq).toNat : Int) = -((seq.map (fun b => (b.toNat : Int))).sum) % 256 := by
  induction seq with
  | nil => rfl
  | cons b bs ih =>
    rw [chk_cons, BitVec.toNat_sub, List.map_cons, List.sum_cons]
    omega

/-- START is -1 modulo 256. -/
theorem toNat_packetChk (cmd len : Byte) (data : List Byte) :
    ((packetChk cmd len data).toNat : Int) =
      (1 - cmd.toNat - len.toNat - (data.map (fun b => (b.toNat : Int))).sum) % 256 := by
  have hstart : START.toNat = 255 := rfl
  rw [packetChk, toNat_chk]
  simp only [List.cons_append, List.nil_append, List.map_cons, List.sum_cons, hstart]
  omega

theorem packet_sum_add_packetChk (cmd len : Byte) (data : List Byte) :
    (0xFF + cmd.toNat + len.toNat + (data.map (fun b => b.toNat)).sum +
      (packetChk cmd len data).toNat) % 256 = 0 := by
  have hchk := toNat_packetChk cmd len data
  have hsum : (((data.map (fun b => b.toNat)).sum : Nat) : Int) =
      (data.map (fun b => (b.toNat : Int))).sum := by
    rw [Nat.cast_list_sum, List.map_map]; rfl
  omega

theorem chk_eq_of_perm {seq seq' : List Byte} (h : seq.Perm seq') : chk seq = chk seq' := by
  have hsum := (h.map (fun b => (b.toNat : Int))).sum_eq
  have hchk := toNat_chk seq
  rw [hsum, ← toNat_chk] at hchk
  exact BitVec.eq_of_toNat_eq (Int.ofNat_inj.mp hchk)

/-! ## The request words of the codec (30_encoding.md R79, R80) -/

theorem decodeRequest_encByte (a b c : Byte) :
    decodeRequest (requestWord 0x01 a b c) = .encByte a := by
  simp [decodeRequest]

theorem decodeRequest_decByte (a b c : Byte) :
    decodeRequest (requestWord 0x02 a b c) = .decByte a (b.getLsbD 0) := by
  simp [decodeRequest, Laws.fieldB0_eq]

/-! ## The answers of the codec -/

theorem exec_encByte (raw : Byte) (s : State) :
    exec (.encByte raw) s = .next (s.respond ((stuff raw).getD 0 0) ((stuff raw).getD 1 0) 0
      (BitVec.ofNat 9 (stuff raw).length)) := rfl

theorem exec_decByte (wire : Byte) (escIn : Bool) (s : State) :
    exec (.decByte wire escIn) s = .next (s.decStep wire escIn) := rfl

/-- With the escape flag set a byte is the second of a pair; one that is not START is no boundary
(40_codec.md R102, R103). -/
theorem State.answered_decStep_pending (s : State) {wire : Byte} (hstart : wire ≠ START) :
    Answered (s.decStep wire true) .ok (wire + 1) 0x01 0 0 := by
  have h := s.answered_decStep wire true
  rwa [dec_of_pending, beq_false_of_ne hstart, packDecFlags_hasOut] at h

/-! ## The obligations -/

/-- Settles O24: each clause is the fact about one stuffing, carried along the sequence. -/
theorem stuffedSequencesDecodeBack : Obligations.StuffedSequencesDecodeBack := fun seq =>
  ⟨rfl, unstuff_stuffSeq seq, start_notMem_stuffSeq seq, length_stuffSeq seq⟩

/-- Settles O25: the other clauses follow from the closed form of CHK as minus the byte sum. -/
theorem checksumHasItsClosedForms : Obligations.ChecksumHasItsClosedForms :=
  ⟨toNat_chk, toNat_packetChk, packet_sum_add_packetChk, fun _ _ => chk_eq_of_perm⟩

/-- Settles O22: the answer is the byte's stuffing, which is a pair for START and for ESCAPE. -/
theorem encByteAnswersTheStuffing : Obligations.EncByteAnswersTheStuffing := by
  refine ⟨decodeRequest_encByte, fun raw s =>
    ⟨_, exec_encByte raw s, OnlyResponds.respond s _ _ _ _, ?start, ?escape, ?literal⟩⟩
  case start => rintro rfl; rfl
  case escape => rintro rfl; rfl
  case literal =>
    intro hstart hesc
    rw [stuff_of_plain hstart hesc]
    rfl

/-- Settles O23, by the escape flag and the class of the wire byte. -/
theorem decByteAnswersOneDecoderStep : Obligations.DecByteAnswersOneDecoderStep := by
  refine ⟨decodeRequest_decByte, fun wire e s => ⟨_, exec_decByte wire e s,
    OnlyResponds.decStep s wire e, ?pendingStart, ?pending, ?escape, ?start, ?literal⟩⟩
  case pendingStart => rintro rfl rfl; rfl
  case pending => rintro rfl hstart; exact s.answered_decStep_pending hstart
  case escape => rintro rfl rfl; rfl
  case start => rintro rfl rfl; rfl
  case literal => rintro rfl hesc hstart; exact s.answered_decStep_literal hstart hesc

end Sys2Proof.Machine
end

section
/-! The circular receive buffer (41_rxbuffer.md): what RX_WRITE stores (R130, R131), where RX_ADVANCE and
DECODE_NEXT can move TAIL (R135, R173), and what each makes of the unread bytes (R137). -/

namespace Sys2Proof.Machine

/-! ## The request words of the receive buffer (30_encoding.md R79, R80) -/

theorem decodeRequest_rxWrite (a b c : Byte) :
    decodeRequest (requestWord 0x03 a b c) = .rxWrite a := by simp [decodeRequest]

theorem decodeRequest_rxPending (a b c : Byte) :
    decodeRequest (requestWord 0x04 a b c) = .rxPending := by simp [decodeRequest]

theorem decodeRequest_rxPeek (a b c : Byte) :
    decodeRequest (requestWord 0x05 a b c) = .rxPeek a := by simp [decodeRequest]

theorem decodeRequest_rxReadAt (a b c : Byte) :
    decodeRequest (requestWord 0x06 a b c) = .rxReadAt a := by simp [decodeRequest]

theorem decodeRequest_rxAdvance (a b c : Byte) :
    decodeRequest (requestWord 0x07 a b c) = .rxAdvance a := by simp [decodeRequest]

/-! ## Which answers are OK (60_exceptions.md R231) -/

@[simp] theorem State.answeredOk_respond (s : State) (r0 r1 r2 : Byte) (r3 : Word9) :
    (s.respond r0 r1 r2 r3).answeredOk = true := rfl

theorem State.answeredOk_raise (s : State) {e : Status} (he : e ≠ .ok) :
    (s.raise e).answeredOk = false := by
  cases e with
  | ok => exact absurd rfl he
  | full | range | encLen | encCmd | illegalOp => rfl

/-! ## Storing a byte (41_rxbuffer.md R130) -/

/-- `s` once RX_WRITE has stored a byte: the byte is in RXBUF[HEAD] and HEAD has moved on. -/
def State.receive (s : State) (b : Byte) : State :=
  (s.writeRx s.head.toNat b).setHead ((s.head.toNat + 1) % s.cfg.rxCap)

section
variable {s : State} (b : Byte)

@[simp] theorem State.receive_cfg : (s.receive b).cfg = s.cfg := rfl

@[simp] theorem State.receive_tail : (s.receive b).tail = s.tail := rfl

theorem State.readByte_receive_head : (s.receive b).readByte .rxbuf s.head.toNat = b :=
  cellAt_write_same _ _ _ _ _

theorem State.readByte_receive_of_ne {i : Nat} (h : i ≠ s.head.toNat) :
    (s.receive b).readByte .rxbuf i = s.readByte .rxbuf i := cellAt_write_of_ne _ _ _ _ h

theorem exec_rxWrite_of_full (h : s.full = true) :
    exec (.rxWrite b) s = .next (s.raise .full) := if_pos h

theorem exec_rxWrite_of_room (h : s.full = false) :
    exec (.rxWrite b) s =
      .next ((s.receive b).respond 0 0 0 (BitVec.ofNat 9 (s.receive b).pending)) :=
  if_neg (by simp [h])

end

section
variable {s : State} (h : s.CursorsLegal)
include h

theorem State.CursorsLegal.head_receive (b : Byte) :
    (s.receive b).head.toNat = (s.head.toNat + 1) % s.cfg.rxCap :=
  h.toNat_ofNat (Nat.mod_lt _ h.cap_pos)

theorem State.CursorsLegal.receive (b : Byte) : (s.receive b).CursorsLegal :=
  ⟨h.1, (h.head_receive b).trans_lt (Nat.mod_lt _ h.cap_pos), h.2.2⟩

/-- Below a full buffer one more byte fits. -/
theorem State.CursorsLegal.pending_lt_of_room (hroom : s.full = false) :
    s.pending + 1 < s.cfg.rxCap := by
  have hne : s.pending ≠ s.cfg.rxCap - 1 := fun he => by simp [h.full_iff.mpr he] at hroom
  have hlt := h.pending_lt
  omega

/-- HEAD moved on is TAIL moved on by one more than PENDING. -/
theorem State.CursorsLegal.pending_receive (hroom : s.full = false) (b : Byte) :
    (s.receive b).pending = s.pending + 1 := by
  have hhead : (s.receive b).head.toNat = (s.tail.toNat + (s.pending + 1)) % s.cfg.rxCap := by
    rw [h.head_receive, ← h.head_eq, Nat.mod_add_mod, Nat.add_assoc]
  rw [State.pending, hhead, State.receive_tail, State.receive_cfg,
    modSub_addMod h.2.2 (h.pending_lt_of_room hroom)]

/-- The distance from TAIL tells the unread entries from HEAD. -/
theorem State.CursorsLegal.windowIndex_ne_head {i : Nat} (hi : i < s.pending) :
    s.windowIndex i ≠ s.head.toNat := by
  intro he
  have hdist : modSub (s.windowIndex i) s.tail.toNat s.cfg.rxCap = i :=
    modSub_addMod h.2.2 (hi.trans h.pending_lt)
  rw [he] at hdist
  exact hi.ne' hdist

/-- The stored byte is the last unread one, and those before it are untouched (41_rxbuffer.md
R137). -/
theorem State.CursorsLegal.window_receive (hroom : s.full = false) (b : Byte) :
    (s.receive b).window = s.window ++ [b] := by
  refine State.window_eq_of (by simp [h.pending_receive hroom b]) fun i hi => ?_
  show (s.receive b).readByte .rxbuf (s.windowIndex i) = _
  by_cases hlt : i < s.pending
  · rw [State.readByte_receive_of_ne b (h.windowIndex_ne_head hlt),
      List.getElem_append_left (by simpa using hlt), State.window_getElem]
  · have hlast : i = s.pending := by simp at hi; omega
    have hhead : s.windowIndex i = s.head.toNat := by rw [hlast]; exact h.head_eq
    rw [hhead, State.readByte_receive_head, List.getElem_append_right (by simp [hlast])]
    simp [hlast]

end

/-! ## Moving TAIL (41_rxbuffer.md R135, 42_parser.md R173) -/

section
variable {s t : State}

theorem exec_rxAdvance_of_range {n : Byte}
    (h : s.cfg.rxCap ≤ n.toNat ∨ s.pending < modSub n.toNat s.tail.toNat s.cfg.rxCap) :
    exec (.rxAdvance n) s = .next (s.raise .range) := by
  by_cases hcur : s.cursorOk n = true
  · have hadv : s.advanceOk n = false := by
      have hlt := (s.cursorOk_iff n).mp hcur
      simp only [State.advanceOk, decide_eq_false_iff_not]
      omega
    simp [exec, execRxAdvance, hcur, hadv]
  · simp [exec, execRxAdvance, hcur]

theorem exec_rxAdvance_of_legal {n : Byte} (hn : n.toNat < s.cfg.rxCap)
    (hd : modSub n.toNat s.tail.toNat s.cfg.rxCap ≤ s.pending) :
    exec (.rxAdvance n) s =
      .next ((s.setTail n.toNat).respond 0 0 0 (BitVec.ofNat 9 (s.setTail n.toNat).pending)) := by
  simp [exec, execRxAdvance, (s.cursorOk_iff n).mpr hn, (s.advanceOk_iff n).mpr hd]

/-- A TAIL register takes a byte as it is. -/
theorem State.tail_setTail (s : State) (n : Byte) : (s.setTail n.toNat).tail = n := by simp

theorem State.pending_setTail (s : State) (n : Byte) :
    (s.setTail n.toNat).pending = modSub s.head.toNat n.toNat s.cfg.rxCap := by
  rw [State.pending, s.tail_setTail n, State.setTail_head, State.setTail_cfg]

/-- `n` is an index from TAIL up to HEAD, HEAD included: the places TAIL can move to. -/
def State.Reaches (s : State) (n : Nat) : Prop := ∃ d, d ≤ s.pending ∧ n = s.windowIndex d

theorem State.Reaches.windowIndex {d : Nat} (hd : d ≤ s.pending) : s.Reaches (s.windowIndex d) :=
  ⟨d, hd, rfl⟩

theorem State.CursorsLegal.reaches_tail (h : s.CursorsLegal) : s.Reaches s.tail.toNat :=
  ⟨0, Nat.zero_le _, (Nat.mod_eq_of_lt h.2.2).symm⟩

theorem State.CursorsLegal.reaches_head (h : s.CursorsLegal) : s.Reaches s.head.toNat :=
  ⟨s.pending, le_rfl, h.head_eq.symm⟩

/-- Every parse leaves TAIL where it was, at HEAD, or at an unread entry: a START, or the one after the
first START of a full buffer (42_parser.md R163, R169 to R172). -/
theorem State.CursorsLegal.reaches_newTail (h : s.CursorsLegal) : s.Reaches s.parse.newTail := by
  have hmp : 3 ≤ s.cfg.maxPacket := by have := h.maxPacket_ge; omega
  rcases window_shapes s.window with hw | ⟨pre, mid, hw, hp, hm⟩ | ⟨pre, mid, post, hw, hp, hm⟩
  · rw [State.parse_of_noStart hw, State.parseEmpty]
    split
    · exact h.reaches_head
    · exact h.reaches_tail
  · obtain ⟨hparse, hregion⟩ := State.parse_of_oneStart hw hp hm
    have hlen : pre.length < s.pending := by rw [← State.length_window, hw]; simp
    rw [hparse, State.parseFrom_eq hmp _ none hregion]
    simp only
    split
    · exact h.reaches_head
    · simp only
      split
      · split
        · exact State.Reaches.windowIndex hlen.le
        · exact State.Reaches.windowIndex (by omega : 1 ≤ s.pending)
      · exact h.reaches_tail
  · obtain ⟨hparse, hregion⟩ := State.parse_of_twoStarts hw hp hm
    have hlen : pre.length + 1 + mid.length ≤ s.pending := by
      rw [← State.length_window, hw]; simp; omega
    rw [hparse, State.parseFrom_eq hmp _ (some _) hregion]
    exact State.Reaches.windowIndex hlen

theorem exec_rxAdvance_reaches {n : Byte} (hs : s.CursorsLegal)
    (h : exec (.rxAdvance n) s = .next t) : s.Reaches t.tail.toNat := by
  rcases exec_rxAdvance_cases h with ⟨-, rfl⟩ | ⟨hn, hd, rfl⟩
  · exact hs.reaches_tail
  · exact ⟨_, hd, (hs.toNat_ofNat hn).trans (addMod_modSub hn hs.2.2).symm⟩

theorem exec_decodeNext_reaches (hs : s.CursorsLegal) (h : exec .decodeNext s = .next t) :
    s.Reaches t.tail.toNat := by
  obtain rfl := Host.Outcome.next.inj ((exec_decodeNext_eq s).symm.trans h)
  have htail := hs.toNat_ofNat (State.parse_bounds hs).2
  rw [State.respond_tail, State.commitParse_tail, htail]
  exact hs.reaches_newTail

/-- The window depends on the build, the cursors and RXBUF alone. -/
theorem State.window_of_keeps (hcfg : t.cfg = s.cfg) (hcur : KeepsCursors s t)
    (hmem : KeepsSpace .rxbuf s t) : t.window = s.window := by
  obtain ⟨hhead, htail⟩ := hcur
  have hpending : t.pending = s.pending := by rw [State.pending, State.pending, hcfg, hhead, htail]
  refine State.window_eq_of (by simp [hpending]) fun i hi => ?_
  rw [State.window_getElem, hmem, State.windowIndex, State.windowIndex, hcfg, htail]

end

/-! ## Writing several bytes (30_encoding.md R87, 41_rxbuffer.md R131) -/

section
variable {s : State} (b : Byte) (bs : List Byte)

theorem rxWriteN_cons_of_ok {t : State} (h : exec (.rxWrite b) s = .next t)
    (hok : t.answeredOk = true) :
    rxWriteN (b :: bs) s = ((rxWriteN bs t).1 + 1, (rxWriteN bs t).2) := by
  simp only [rxWriteN, h, hok, if_true]

/-- The first byte that is not accepted ends the writing. -/
theorem rxWriteN_cons_of_error {t : State} (h : exec (.rxWrite b) s = .next t)
    (hok : t.answeredOk = false) : rxWriteN (b :: bs) s = (0, t) := by
  simp only [rxWriteN, h, hok, Bool.false_eq_true, if_false]

end

/-! ## The obligations -/

/-- Settles O32: RX_WRITE raises FULL or stores a byte, RX_ADVANCE and DECODE_NEXT move TAIL to a place
the unread bytes reach, and no other row writes RXBUF or a cursor. -/
theorem unreadBytesOnlyGrowAtTheEndOrLoseAPrefix :
    Obligations.UnreadBytesOnlyGrowAtTheEndOrLoseAPrefix := by
  intro i s t hs h
  obtain ⟨⟨hcfg, -⟩, hhead, htail, -⟩ := onlyTheNamedOperationsWrite i s t h
  by_cases hwrite : ∃ b, i = .rxWrite b
  · obtain ⟨b, rfl⟩ := hwrite
    rcases exec_rxWrite_cases h with ⟨-, rfl⟩ | ⟨hroom, n, rfl⟩
    · exact .inl rfl
    · exact .inr (.inl ⟨b, rfl, hs.window_receive hroom b⟩)
  · obtain ⟨hhead, hrx⟩ := hhead (not_exists.mp hwrite)
    by_cases hmove : (∃ n, i = .rxAdvance n) ∨ i = .decodeNext
    · have hreach : s.Reaches t.tail.toNat := by
        rcases hmove with ⟨n, rfl⟩ | rfl
        · exact exec_rxAdvance_reaches hs h
        · exact exec_decodeNext_reaches hs h
      obtain ⟨d, hd, htail⟩ := hreach
      exact .inr (.inr ⟨hmove, d, hd, (hs.window_of_tail hd hcfg hhead hrx htail).2⟩)
    · obtain ⟨hadvance, hdecode⟩ := not_or.mp hmove
      exact .inl (State.window_of_keeps hcfg ⟨hhead, htail (not_exists.mp hadvance) hdecode⟩ hrx)

/-- Settles O27, by whether the buffer is full. -/
theorem rxWriteStoresAtHeadOrAnswersFull : Obligations.RxWriteStoresAtHeadOrAnswersFull := by
  refine ⟨decodeRequest_rxWrite, fun b s hs => ⟨fun hfull => ?full, fun hroom => ?room⟩⟩
  case full =>
    exact ⟨_, exec_rxWrite_of_full b (beq_iff_eq.mpr hfull), Raised.raise .full s⟩
  case room =>
    have hroom : s.full = false := beq_false_of_ne hroom
    have hexec := exec_rxWrite_of_room b hroom
    obtain ⟨hsur, htail, hres, hlen, hscr, htd, htw⟩ := exec_rxWrite_keeps hexec
    exact ⟨_, (s.receive b).pending, hexec, hs.head_receive b, htail, State.readByte_receive_head b,
      fun _ => State.readByte_receive_of_ne b, hs.window_receive hroom b,
      (hs.receive b).pending_eq_emod, rfl, hres, hlen, hsur, hscr, htd, htw⟩

/-- Settles O31: the distances from TAIL are the remainders of 00_scope.md R11. -/
theorem rxAdvanceMovesTailForward : Obligations.RxAdvanceMovesTailForward := by
  refine ⟨decodeRequest_rxAdvance, fun new s hs => ?_⟩
  have hpending := hs.pending_eq_emod
  have hdist := modSub_eq_emod new.toNat s.tail.toNat hs.cap_pos
  refine ⟨fun hcap => ?notIndex, fun _ hpast => ?pastHead, fun hn hle => ?legal⟩
  case notIndex =>
    exact ⟨_, exec_rxAdvance_of_range (.inl hcap), Raised.raise .range s⟩
  case pastHead =>
    exact ⟨_, exec_rxAdvance_of_range (.inr (by omega)), Raised.raise .range s⟩
  case legal =>
    have hexec := exec_rxAdvance_of_legal (s := s) hn (by omega)
    obtain ⟨hsur, hhead, hres, hlen, hsp⟩ := exec_rxAdvance_keeps hexec
    refine ⟨_, (s.setTail new.toNat).pending, hexec, s.tail_setTail new, hhead, ?_, rfl, hres, hlen,
      hsur, hsp⟩
    rw [s.pending_setTail new]
    exact modSub_eq_emod _ _ hs.cap_pos

/-- Settles O33: the new TAIL is the old one moved on by the distance, and HEAD is PENDING away. -/
theorem rxAdvanceDropsThePassedBytes : Obligations.RxAdvanceDropsThePassedBytes := by
  intro new s t hs h hok
  obtain ⟨⟨hcfg, -⟩, hhead, -, -, hsp⟩ := exec_rxAdvance_keeps h
  rcases exec_rxAdvance_cases h with ⟨-, rfl⟩ | ⟨hn, hd, rfl⟩
  · rw [s.answeredOk_raise (e := .range) nofun] at hok
    cases hok
  · obtain ⟨hpending, hwindow⟩ := hs.window_of_tail hd hcfg hhead (hsp .rxbuf)
      ((hs.toNat_ofNat hn).trans (addMod_modSub hn hs.2.2).symm)
    refine ⟨hwindow, hpending, ?_⟩
    rintro rfl
    rw [hwindow]
    exact List.drop_eq_nil_of_le s.length_window.le

/-- Settles O34, by induction over the bytes: each write takes one place until the buffer is full. -/
theorem rxWriteNWritesWhatFits : Obligations.RxWriteNWritesWhatFits := by
  intro bs
  induction bs with
  | nil => intro s _; simp [rxWriteN]
  | cons b bs ih =>
    intro s hs
    cases hfull : s.full with
    | true =>
      have hpending := hs.full_iff.mp hfull
      rw [rxWriteN_cons_of_error b bs (exec_rxWrite_of_full b hfull) (s.answeredOk_raise nofun)]
      simp [hpending]
    | false =>
      rw [rxWriteN_cons_of_ok b bs (exec_rxWrite_of_room b hfull) rfl]
      obtain ⟨hcount, hwindow, htail⟩ := ih ((s.receive b).respond 0 0 0 _) (hs.receive b)
      have hlt := hs.pending_lt_of_room hfull
      rw [State.respond_cfg, State.receive_cfg, State.respond_pending,
        hs.pending_receive hfull] at hcount
      rw [State.respond_window, hs.window_receive hfull] at hwindow
      refine ⟨?_, ?_, htail⟩
      · simp only [hcount, List.length_cons]; omega
      · simpa using hwindow

/-- Settles O28: PENDING is the remainder of 10_state.md R26. -/
theorem rxPendingAnswersTheCursors : Obligations.RxPendingAnswersTheCursors :=
  ⟨decodeRequest_rxPending, fun s hs => ⟨_, s.pending, rfl, hs.pending_eq_emod, hs.pending_lt, rfl,
    OnlyResponds.respond s _ _ _ _⟩⟩

/-- Settles O29, on the two sides of PENDING. -/
theorem rxPeekReadsAnUnreadByte : Obligations.RxPeekReadsAnUnreadByte := by
  refine ⟨decodeRequest_rxPeek, fun offset s hs => ?_⟩
  rw [← hs.pending_eq_emod]
  refine ⟨fun hlt => ?unread, fun hge => ?beyond⟩
  case unread =>
    exact ⟨_, if_pos ((s.peekOk_iff offset).mpr (by omega)), OnlyResponds.respond s _ _ _ _, rfl⟩
  case beyond =>
    exact ⟨_, if_neg (mt (s.peekOk_iff offset).mp (by omega)), Raised.raise .range s⟩

/-- Settles O30: the row reads one entry and answers it. -/
theorem rxReadAtReadsModuloCapacity : Obligations.RxReadAtReadsModuloCapacity :=
  ⟨decodeRequest_rxReadAt, fun _ s => ⟨_, rfl, OnlyResponds.respond s _ _ _ _, rfl⟩⟩

end Sys2Proof.Machine
end

section
/-! The framing parser (42_parser.md): what a parse finds in a window of unread bytes, as a relation
on the build and the window alone (R174), what DECODE_NEXT makes of it (R163, R169 to R173), and the
packets in the recovered bytes (R177, R178, R180). -/

namespace Sys2Proof.Machine

/-! ## What a parse finds -/

/-- The outcome of a parse: its result fields, the raw bytes it recovers and how many unread bytes
it takes. -/
structure Finding where
  code : PktCode
  cmd : Byte
  len : Byte
  raw : List Byte
  forced : Bool
  ovf : Bool
  recovered : Bool
  cmdZero : Bool
  moved : Nat

/-- The window fills the receive buffer (42_parser.md R172). -/
def fillsBuffer (c : Config) (w : List Byte) : Bool := decide (w.length = c.rxCap - 1)

/-- No START: a full buffer is discarded whole (42_parser.md R163, R172 case 1). -/
def Finding.empty (c : Config) (w : List Byte) : Finding where
  code := .empty
  cmd := 0x00
  len := 0x00
  raw := []
  forced := false
  ovf := false
  recovered := fillsBuffer c w
  cmdZero := false
  moved := if fillsBuffer c w then w.length else 0

/-- A valid span `mid` after the only START: the window is consumed (42_parser.md R170). -/
def Finding.consumed (c : Config) (w mid : List Byte) : Finding where
  code := .valid
  cmd := (spanRaw c.maxPacket mid).getD 1 0
  len := (spanRaw c.maxPacket mid).getD 2 0
  raw := spanRaw c.maxPacket mid
  forced := false
  ovf := spanOverflows c.maxPacket mid
  recovered := false
  cmdZero := false
  moved := w.length

/-- A span `mid` after the only START that is not valid: a full buffer gives up the bytes `pre`
before the START, or a START that stands first (42_parser.md R171, R172 cases 2 and 3). -/
def Finding.held (c : Config) (w pre mid : List Byte) : Finding where
  code := if rawComplete (spanRaw c.maxPacket mid) then .heldInvalid else .incomplete
  cmd := 0x00
  len := 0x00
  raw := spanRaw c.maxPacket mid
  forced := false
  ovf := spanOverflows c.maxPacket mid
  recovered := fillsBuffer c w
  cmdZero := rawCmdZero (spanRaw c.maxPacket mid)
  moved := if fillsBuffer c w then max pre.length 1 else 0

/-- A span `mid` between the first two STARTs, the first one after the bytes `pre` (42_parser.md
R169). -/
def Finding.forcedOut (c : Config) (pre mid : List Byte) : Finding where
  code := if rawValid (spanRaw c.maxPacket mid) then .valid else .resync
  cmd := (spanRaw c.maxPacket mid).getD 1 0
  len := (spanRaw c.maxPacket mid).getD 2 0
  raw := spanRaw c.maxPacket mid
  forced := true
  ovf := spanOverflows c.maxPacket mid
  recovered := false
  cmdZero := rawCmdZero (spanRaw c.maxPacket mid)
  moved := pre.length + 1 + mid.length

/-- What a parse finds in the window `w` of a build, one constructor per shape of window. -/
inductive Finds (c : Config) (w : List Byte) : Finding → Prop
  | empty (hw : START ∉ w) : Finds c w (.empty c w)
  | consumed {pre mid : List Byte} (hw : w = pre ++ START :: mid) (hp : START ∉ pre)
      (hm : START ∉ mid) (hv : rawValid (spanRaw c.maxPacket mid) = true) :
      Finds c w (.consumed c w mid)
  | held {pre mid : List Byte} (hw : w = pre ++ START :: mid) (hp : START ∉ pre)
      (hm : START ∉ mid) (hv : rawValid (spanRaw c.maxPacket mid) = false) :
      Finds c w (.held c w pre mid)
  | forcedOut {pre mid post : List Byte} (hw : w = pre ++ START :: mid ++ START :: post)
      (hp : START ∉ pre) (hm : START ∉ mid) : Finds c w (.forcedOut c pre mid)

/-- Every window has one of the shapes. -/
theorem exists_finds (c : Config) (w : List Byte) : ∃ f, Finds c w f := by
  rcases window_shapes w with hw | ⟨pre, mid, hw, hp, hm⟩ | ⟨pre, mid, post, hw, hp, hm⟩
  · exact ⟨_, .empty hw⟩
  · cases hv : rawValid (spanRaw c.maxPacket mid) with
    | true => exact ⟨_, .consumed hw hp hm hv⟩
    | false => exact ⟨_, .held hw hp hm hv⟩
  · exact ⟨_, .forcedOut hw hp hm⟩

section
variable {c : Config} {w : List Byte} {f : Finding}

theorem Finds.moved_le (h : Finds c w f) : f.moved ≤ w.length := by
  cases h with
  | empty => simp only [Finding.empty]; split <;> omega
  | consumed => exact le_rfl
  | held hw =>
    simp only [Finding.held]
    split <;> simp [hw]; omega
  | forcedOut hw => simp [Finding.forcedOut, hw]; omega

/-- A packet, valid or not, takes at least its START (42_parser.md R175). -/
theorem Finds.moved_pos_of_packet (h : Finds c w f) (hcode : f.code = .valid ∨ f.code = .resync) :
    1 ≤ f.moved := by
  cases h with
  | empty => simp [Finding.empty] at hcode
  | consumed hw => simp [Finding.consumed, hw]; omega
  | held => simp only [Finding.held] at hcode; split at hcode <;> simp at hcode
  | forcedOut => simp only [Finding.forcedOut]; omega

/-- Recovery takes at least one byte of a full buffer (42_parser.md R175). -/
theorem Finds.moved_pos_of_recovered (h : Finds c w f) (hcap : 2 ≤ c.rxCap)
    (hrec : f.recovered = true) : 1 ≤ f.moved := by
  cases h with
  | empty =>
    simp only [Finding.empty] at hrec ⊢
    rw [if_pos hrec]
    simp only [fillsBuffer, decide_eq_true_eq] at hrec
    omega
  | consumed => simp [Finding.consumed] at hrec
  | held =>
    simp only [Finding.held] at hrec ⊢
    rw [if_pos hrec]
    exact le_max_right _ _
  | forcedOut => simp [Finding.forcedOut] at hrec

/-- A result that is no packet and no recovery takes nothing (42_parser.md R175). -/
theorem Finds.moved_eq_zero (h : Finds c w f) (hvalid : f.code ≠ .valid)
    (hresync : f.code ≠ .resync) (hrec : f.recovered = false) : f.moved = 0 := by
  cases h with
  | empty => exact if_neg (ne_true_of_eq_false hrec)
  | consumed => exact absurd rfl hvalid
  | held => exact if_neg (ne_true_of_eq_false hrec)
  | forcedOut =>
    simp only [Finding.forcedOut] at hvalid hresync
    split at hvalid <;> simp_all

/-- A forced result takes the bytes before the second START (42_parser.md R169). -/
theorem Finds.moved_of_forced (h : Finds c w f) (hforced : f.forced = true) :
    ∃ pre mid post, w = pre ++ START :: mid ++ START :: post ∧ START ∉ pre ∧ START ∉ mid ∧
      f.moved = pre.length + 1 + mid.length := by
  cases h with
  | empty | consumed | held => cases hforced
  | forcedOut hw hp hm => exact ⟨_, _, _, hw, hp, hm, rfl⟩

/-- A tentative VALID takes the whole window (42_parser.md R170). -/
theorem Finds.moved_of_tentativeValid (h : Finds c w f) (hcode : f.code = .valid)
    (hforced : f.forced = false) : f.moved = w.length := by
  cases h with
  | empty => cases hcode
  | consumed => rfl
  | held => simp only [Finding.held] at hcode; split at hcode <;> cases hcode
  | forcedOut => cases hforced

/-- A VALID result comes of a valid span after a START and up to the next one or the end of the
window, and takes that START (42_parser.md R177). -/
theorem Finds.span_of_valid (h : Finds c w f) (hcode : f.code = .valid) :
    ∃ pre mid post, w = pre ++ START :: mid ++ post ∧ START ∉ mid ∧ endsRegion post = true ∧
      pre.length + 1 ≤ f.moved ∧ f.raw = spanRaw c.maxPacket mid ∧ rawValid f.raw = true ∧
      f.cmd = f.raw.getD 1 0 ∧ f.len = f.raw.getD 2 0 := by
  cases h with
  | empty => cases hcode
  | consumed hw _ hm hv =>
    refine ⟨_, _, [], by simpa using hw, hm, rfl, ?_, rfl, hv, rfl, rfl⟩
    simp only [Finding.consumed, hw, List.length_append, List.length_cons]
    omega
  | held => simp only [Finding.held] at hcode; split at hcode <;> cases hcode
  | forcedOut hw _ hm =>
    exact ⟨_, _, _, hw, hm, rfl, Nat.le_add_right _ _, rfl,
      by simpa [Finding.forcedOut] using hcode, rfl, rfl⟩

/-- With a START in the window the first recovered byte is START (42_parser.md R166). -/
theorem Finds.raw_of_start (h : Finds c w f) (hmp : 1 ≤ c.maxPacket) (hw : START ∈ w) :
    1 ≤ f.raw.length ∧ f.raw.getD 0 0 = START := by
  have hspan : ∀ mid, 1 ≤ (spanRaw c.maxPacket mid).length ∧
      (spanRaw c.maxPacket mid).getD 0 0 = START :=
    fun mid => ⟨length_spanRaw_pos hmp mid, spanRaw_getD_zero hmp mid⟩
  cases h with
  | empty hnone => exact absurd hw hnone
  | consumed | held | forcedOut => exact hspan _

end

/-! ## What DECODE_NEXT makes of it -/

/-- What DECODE_NEXT writes back for a finding (42_parser.md R173). -/
def Finding.toParse (f : Finding) (s : State) : Parse where
  code := f.code
  cmd := f.cmd
  len := f.len
  k := f.raw.length
  forced := f.forced
  ovf := f.ovf
  recovered := f.recovered
  cmdZero := f.cmdZero
  scratch := s.scratch.writeList 0 f.raw
  newTail := s.windowIndex f.moved

/-- `t` is `s` after a DECODE_NEXT with this finding. -/
structure Parsed (f : Finding) (s t : State) : Prop where
  keeps : KeepsBesidesParser s t
  scratch : ScratchHolds f.raw s t
  reports : Reports t f.code f.cmd f.len f.raw.length f.forced f.ovf f.recovered f.cmdZero
  status : t.pktStatus = packStatus f.code f.forced f.ovf f.recovered f.cmdZero
  tail : t.tail.toNat = (s.tail.toNat + f.moved) % s.cfg.rxCap
  pending : t.pending = s.pending - f.moved
  window : t.window = s.window.drop f.moved

section
variable {s t : State} {f : Finding}

theorem State.snapshotFull_eq (s : State) : s.snapshotFull = fillsBuffer s.cfg s.window := by
  rw [State.snapshotFull, fillsBuffer, State.length_window, beq_eq_decide]

theorem State.CursorsLegal.windowIndex_zero (hs : s.CursorsLegal) :
    s.windowIndex 0 = s.tail.toNat := Nat.mod_eq_of_lt hs.2.2

theorem State.CursorsLegal.windowIndex_length (hs : s.CursorsLegal) :
    s.windowIndex s.window.length = s.head.toNat := by
  rw [State.length_window]; exact hs.head_eq

/-- The parser's phases come to the finding of its window (42_parser.md R162 to R172). -/
theorem Finds.parse_eq (h : Finds s.cfg s.window f) (hs : s.CursorsLegal) :
    s.parse = f.toParse s := by
  have hmp : 3 ≤ s.cfg.maxPacket := by have := hs.maxPacket_ge; omega
  have htail := hs.windowIndex_zero
  have hhead := hs.windowIndex_length
  cases h with
  | empty hw =>
    rw [State.parse_of_noStart hw, State.parseEmpty, s.snapshotFull_eq]
    simp only [Finding.toParse, Finding.empty]
    congr 1
    split
    · exact hhead.symm
    · exact htail.symm
  | consumed hw hp hm hv =>
    obtain ⟨hparse, hregion⟩ := State.parse_of_oneStart hw hp hm
    rw [hparse, State.parseFrom_eq hmp _ none hregion]
    simp only [hv, if_true, rawCmdZero_eq_false hv, Finding.toParse, Finding.consumed, hhead]
  | @held pre mid hw hp hm hv =>
    obtain ⟨hparse, hregion⟩ := State.parse_of_oneStart hw hp hm
    rw [hparse, State.parseFrom_eq hmp _ none hregion, s.snapshotFull_eq]
    simp only [hv, Bool.false_eq_true, if_false, Finding.toParse, Finding.held]
    congr 1
    split
    · split
      · rw [max_eq_left ‹_›]; rfl
      · rw [max_eq_right (by omega)]; rfl
    · exact htail.symm
  | forcedOut hw hp hm =>
    obtain ⟨hparse, hregion⟩ := State.parse_of_twoStarts hw hp hm
    rw [hparse, State.parseFrom_eq hmp _ (some _) hregion]
    rfl

theorem Finds.parsed (h : Finds s.cfg s.window f) (hs : s.CursorsLegal) :
    ∃ t, exec .decodeNext s = .next t ∧ Parsed f s t := by
  have hexec := exec_decodeNext_eq s
  rw [h.parse_eq hs] at hexec
  have hkeeps := KeepsBesidesParser.commit s (f.toParse s) f.cmd f.len (f.toParse s).status
    (BitVec.ofNat 9 f.raw.length)
  have hle : f.moved ≤ s.pending := by simpa using h.moved_le
  have htail := hs.toNat_ofNat (Nat.mod_lt (s.tail.toNat + f.moved) hs.cap_pos)
  obtain ⟨hhead, -, ⟨hcfg, -⟩, hrx, -⟩ := hkeeps
  obtain ⟨hpending, hwindow⟩ := hs.window_of_tail hle hcfg hhead hrx htail
  exact ⟨_, hexec, KeepsBesidesParser.commit s _ _ _ _ _,
    ScratchHolds.commit s _ f.raw _ _ _ _ rfl, Reports.commit s (f.toParse s), rfl, htail, hpending,
    hwindow⟩

/-- What a DECODE_NEXT can do: the finding of its window. -/
theorem exec_decodeNext_finds (hs : s.CursorsLegal) (h : exec .decodeNext s = .next t) :
    ∃ f, Finds s.cfg s.window f ∧ Parsed f s t := by
  obtain ⟨f, hf⟩ := exists_finds s.cfg s.window
  obtain ⟨u, hu, hparsed⟩ := hf.parsed hs
  obtain rfl := Host.Outcome.next.inj (hu.symm.trans h)
  exact ⟨f, hf, hparsed⟩

theorem Parsed.cfg_eq (h : Parsed f s t) : t.cfg = s.cfg := by
  obtain ⟨-, -, ⟨hcfg, -⟩, -⟩ := h.keeps
  exact hcfg

theorem Parsed.head_eq (h : Parsed f s t) : t.head = s.head := by
  obtain ⟨hhead, -⟩ := h.keeps
  exact hhead

theorem Parsed.cursorsLegal (h : Parsed f s t) (hs : s.CursorsLegal) : t.CursorsLegal := by
  rw [State.CursorsLegal, h.cfg_eq, h.head_eq, h.tail]
  exact ⟨hs.1, hs.2.1, Nat.mod_lt _ hs.cap_pos⟩

theorem Parsed.tail_eq_of_moved_zero (h : Parsed f s t) (hs : s.CursorsLegal) (hm : f.moved = 0) :
    t.tail = s.tail := by
  refine BitVec.eq_of_toNat_eq ?_
  rw [h.tail, hm]
  exact hs.windowIndex_zero

theorem Parsed.tail_eq_head (h : Parsed f s t) (hs : s.CursorsLegal)
    (hm : f.moved = s.window.length) : t.tail = s.head := by
  refine BitVec.eq_of_toNat_eq ?_
  rw [h.tail, hm]
  exact hs.windowIndex_length

theorem Parsed.tailMoved_eq (h : Parsed f s t) (hs : s.CursorsLegal)
    (hle : f.moved ≤ s.window.length) : tailMoved s t = f.moved := by
  rw [State.length_window] at hle
  rw [tailMoved, h.tail, modSub_addMod hs.2.2 (hle.trans_lt hs.pending_lt)]

theorem Parsed.statusCode_eq_iff (h : Parsed f s t) (c : PktCode) :
    statusCode t.pktStatus = c.code ↔ f.code = c := by
  obtain ⟨-, -, -, hcode, -⟩ := h.reports
  rw [hcode, PktCode.code_inj]

theorem Parsed.forced_eq (h : Parsed f s t) : statusForced t.pktStatus = f.forced := by
  obtain ⟨-, -, -, -, hforced, -⟩ := h.reports
  exact hforced

theorem Parsed.recovered_eq (h : Parsed f s t) : statusRecovered t.pktStatus = f.recovered := by
  obtain ⟨-, -, -, -, -, -, hrec, -⟩ := h.reports
  exact hrec

/-- A result that is neither VALID nor RESYNC is 'no packet' (42_parser.md R175). -/
theorem Parsed.noPacket_iff (h : Parsed f s t) :
    noPacket t.pktStatus = true ↔ f.code ≠ .valid ∧ f.code ≠ .resync := by
  rw [h.status, noPacket_packStatus]
  cases f.code <;> simp

end

/-! ## One parse of each shape of window -/

/-- Where room is left RX_WRITE puts its byte after the unread ones (41_rxbuffer.md R130). -/
theorem State.CursorsLegal.exec_rxWrite_stores {s : State} (hs : s.CursorsLegal) (b : Byte)
    (hroom : s.pending + 1 < s.cfg.rxCap) :
    ∃ t, exec (.rxWrite b) s = .next t ∧ t.CursorsLegal ∧ t.cfg = s.cfg ∧ t.tail = s.tail ∧
      t.window = s.window ++ [b] := by
  have hfull : s.full = false := by
    rw [Bool.eq_false_iff, Ne, hs.full_iff]
    omega
  exact ⟨_, exec_rxWrite_of_room b hfull, hs.receive b, rfl, rfl, hs.window_receive hfull b⟩

/-- Settles O36: without START the finding is EMPTY and takes the whole of a full buffer, else
nothing. -/
theorem parseWithoutStartIsEmpty : Obligations.ParseWithoutStartIsEmpty := by
  intro s hs hw
  obtain ⟨t, hexec, hp⟩ := (Finds.empty (c := s.cfg) hw).parsed hs
  have hfull : fillsBuffer s.cfg s.window = decide (s.pending = s.cfg.rxCap - 1) := by
    rw [fillsBuffer, State.length_window]
  obtain ⟨-, hscratch⟩ := hp.scratch
  refine ⟨t, hexec, hp.keeps, fun i => hscratch i (Nat.zero_le i), hfull ▸ hp.reports, ?_⟩
  split
  · exact hp.tail_eq_head hs (if_pos (by simpa [hfull]))
  · exact hp.tail_eq_of_moved_zero hs (if_neg (by simpa [hfull]))

/-- Settles O37: what a forced finding leaves begins at the second START. -/
theorem secondStartForcesTheAdvance : Obligations.SecondStartForcesTheAdvance := by
  intro s pre mid post hs hw hpre hmid
  obtain ⟨t, hexec, hp⟩ := (Finds.forcedOut (c := s.cfg) hw hpre hmid).parsed hs
  refine ⟨t, _, rfl, hexec, hp.keeps, hp.scratch, hp.reports, hp.tail, ?_⟩
  rw [hp.window, hw]
  exact List.drop_left' (by simp [Finding.forcedOut]; omega)

/-- Settles O38: a tentative valid finding takes the whole window. -/
theorem tentativeValidPacketIsConsumed : Obligations.TentativeValidPacketIsConsumed := by
  intro s pre mid hs hw hpre hmid hv
  obtain ⟨t, hexec, hp⟩ := (Finds.consumed hw hpre hmid hv).parsed hs
  refine ⟨t, _, rfl, hexec, hp.keeps, hp.scratch, hp.reports, hp.tail_eq_head hs rfl, ?_⟩
  rw [hp.window]
  exact List.drop_length

/-- Settles O39: TAIL and the unread bytes stay, so the next START makes the span a forced one. -/
theorem tentativeInvalidPacketIsHeld : Obligations.TentativeInvalidPacketIsHeld := by
  intro s pre mid hs hw hpre hmid hv hroom
  obtain ⟨t, hexec, hp⟩ := (Finds.held hw hpre hmid hv).parsed hs
  have hfull : fillsBuffer s.cfg s.window = false := by simpa [fillsBuffer] using hroom
  have hmoved : (Finding.held s.cfg s.window pre mid).moved = 0 := by simp [Finding.held, hfull]
  have hreports := hp.reports
  have hpending := hp.pending
  have hwindow := hp.window
  simp only [Finding.held, hfull] at hreports
  rw [hmoved] at hpending hwindow
  rw [List.drop_zero] at hwindow
  have hlt := hs.pending_lt
  obtain ⟨u, hu, hus, hucfg, -, huw⟩ := (hp.cursorsLegal hs).exec_rxWrite_stores START
    (by rw [hpending, hp.cfg_eq]; omega)
  have huw' : u.window = pre ++ START :: mid ++ START :: [] := by rw [huw, hwindow, hw]
  obtain ⟨v, hv', hpv⟩ := (Finds.forcedOut huw' hpre hmid).parsed hus
  have hreports' := hpv.reports
  simp only [Finding.forcedOut, hucfg.trans hp.cfg_eq, hv] at hreports'
  refine ⟨t, _, rfl, hexec, hp.keeps, hp.scratch, hreports, hp.tail_eq_of_moved_zero hs hmoved,
    hwindow, u, v, hu, hv', hreports', ?_⟩
  rw [hpv.window, huw']
  exact List.drop_left' (by simp [Finding.forcedOut]; omega)

/-- Settles O40, by the shape of the window and whether bytes stand before its START. -/
theorem fullBufferIsRecovered : Obligations.FullBufferIsRecovered := by
  intro s hs hcap
  have hfull : fillsBuffer s.cfg s.window = true := by simpa [fillsBuffer] using hcap
  refine ⟨fun hw => ?noStart, fun pre mid hw hpre hmid hv => ?oneStart⟩
  case noStart =>
    obtain ⟨t, hexec, hp⟩ := (Finds.empty (c := s.cfg) hw).parsed hs
    exact ⟨t, hexec, hp.tail_eq_head hs (if_pos hfull), hfull ▸ hp.reports⟩
  case oneStart =>
    obtain ⟨t, hexec, hp⟩ := (Finds.held hw hpre hmid hv).parsed hs
    have hmoved : (Finding.held s.cfg s.window pre mid).moved = max pre.length 1 := if_pos hfull
    have htail := hp.tail
    have hwindow := hp.window
    have hreports := hp.reports
    rw [hmoved] at htail hwindow
    rw [hw] at hwindow
    simp only [Finding.held, hfull] at hreports
    refine ⟨t, _, rfl, hexec, hp.keeps, hp.scratch, hreports, fun hne => ?_, ?_⟩
    · rw [max_eq_left (List.length_pos_iff.mpr hne)] at htail hwindow
      exact ⟨htail, hwindow.trans List.drop_left⟩
    · rintro rfl
      exact ⟨htail, hwindow⟩

/-! ## Every parse -/

/-- Settles O41: a finding is one of the build and the window, and fixes all that a DECODE_NEXT
reports. -/
theorem parseDependsOnlyOnTheWindow : Obligations.ParseDependsOnlyOnTheWindow := by
  intro s s' t t' hs hs' hcfg hw h h'
  obtain ⟨f, hf, hp⟩ := exec_decodeNext_finds hs h
  obtain ⟨u, hu, hp'⟩ := Finds.parsed (s := s') (hcfg ▸ hw ▸ hf) hs'
  obtain rfl := Host.Outcome.next.inj (hu.symm.trans h')
  have hstatus := hp.status.trans hp'.status.symm
  have hwindow : t.window = u.window := by rw [hp.window, hp'.window, hw]
  have hle := hf.moved_le
  have hmoved : tailMoved s t = tailMoved s' u :=
    (hp.tailMoved_eq hs hle).trans (hp'.tailMoved_eq hs' (hw ▸ hle)).symm
  obtain ⟨hcmd, hlen, hcount, -, -, -, -, -, -, hresp⟩ := hp.reports
  obtain ⟨hcmd', hlen', hcount', -, -, -, -, -, -, hresp'⟩ := hp'.reports
  obtain ⟨hscratch, -⟩ := hp.scratch
  obtain ⟨hscratch', -⟩ := hp'.scratch
  have hk : t.pktCount.toNat ≤ f.raw.length := by rw [hcount]; exact Nat.mod_le _ _
  exact ⟨hcmd.trans hcmd'.symm, hlen.trans hlen'.symm, hcount.trans hcount'.symm, hstatus,
    by rw [hresp, hresp', hstatus],
    fun i hi => (hscratch i (by omega)).trans (hscratch' i (by omega)).symm, hmoved, hwindow⟩

/-- Settles O42: each clause is one of what the finding takes. -/
theorem parseMakesProgress : Obligations.ParseMakesProgress := by
  intro s t hs h
  obtain ⟨f, hf, hp⟩ := exec_decodeNext_finds hs h
  have hle := hf.moved_le
  simp only [hp.tailMoved_eq hs hle, Ne, hp.statusCode_eq_iff, hp.forced_eq, hp.recovered_eq,
    hp.noPacket_iff]
  rw [State.length_window] at hle
  exact ⟨fun hcode => ⟨hf.moved_pos_of_packet hcode, hle⟩, hf.moved_of_forced,
    fun hcode hforced => (hf.moved_of_tentativeValid hcode hforced).trans s.length_window,
    hf.moved_pos_of_recovered hs.1.1.1,
    fun hvalid hresync hrec => ⟨hp.tail_eq_of_moved_zero hs (hf.moved_eq_zero hvalid hresync hrec),
      hvalid, hresync⟩⟩

/-- Every call that reports a packet removes a pending byte (42_parser.md R176). -/
theorem pending_lt_of_packet {s t : State} (hs : s.CursorsLegal) (h : exec .decodeNext s = .next t)
    (hpacket : noPacket t.pktStatus = false) : t.pending < s.pending := by
  obtain ⟨f, hf, hp⟩ := exec_decodeNext_finds hs h
  have hcode : f.code = .valid ∨ f.code = .resync := by
    by_contra hcode
    simp [hp.noPacket_iff.mpr (not_or.mp hcode)] at hpacket
  have hpos := hf.moved_pos_of_packet hcode
  have hle := hf.moved_le
  rw [State.length_window] at hle
  rw [hp.pending]
  omega

/-- More calls than pending bytes are enough for DRAIN (42_parser.md R176). -/
theorem drain_of_pending_lt {calls : Nat} {s : State} (hs : s.CursorsLegal)
    (hlt : s.pending < calls) :
    ∃ n t, drain calls s = some (n, t) ∧ n ≤ calls ∧ noPacket t.pktStatus = true := by
  induction calls generalizing s with
  | zero => exact absurd hlt (Nat.not_lt_zero _)
  | succ calls ih =>
    have hexec := exec_decodeNext_eq s
    generalize (s.commitParse s.parse).respond _ _ _ _ = t at hexec
    cases hno : noPacket t.pktStatus with
    | true => exact ⟨1, t, by simp [drain, hexec, hno], by omega, hno⟩
    | false =>
      obtain ⟨f, -, hp⟩ := exec_decodeNext_finds hs hexec
      have hless := pending_lt_of_packet hs hexec hno
      obtain ⟨n, u, hdrain, hn, hu⟩ := ih (hp.cursorsLegal hs) (by omega)
      exact ⟨n + 1, u, by simp [drain, hexec, hno, hdrain], by omega, hu⟩

/-- Settles O43, by induction on the calls: each packet takes a pending byte. -/
theorem drainEndsWithinPendingPlusOneCalls : Obligations.DrainEndsWithinPendingPlusOneCalls :=
  fun s hs => ⟨drain_of_pending_lt hs s.pending.lt_succ_self, fun _ => pending_lt_of_packet hs⟩

/-! ## SCRATCH_READ (42_parser.md R180) -/

theorem decodeRequest_scratchRead (a b c : Byte) :
    decodeRequest (requestWord 0x09 a b c) = .scratchRead a := by simp [decodeRequest]

theorem exec_scratchRead_of_lt {i : Byte} {s : State} (h : i.toNat < s.cfg.maxPacket) :
    exec (.scratchRead i) s = .next (s.respond (s.readByte .scratch i.toNat) 0 0 0) :=
  if_pos ((s.scratchOk_iff i).mpr h)

theorem exec_scratchRead_of_ge {i : Byte} {s : State} (h : s.cfg.maxPacket ≤ i.toNat) :
    exec (.scratchRead i) s = .next (s.raise .range) :=
  if_neg (mt (s.scratchOk_iff i).mp h.not_gt)

/-- Payload byte `k` of the data view is SCRATCH[3 + k]. -/
theorem State.packet_data_getD (s : State) {k : Nat} (hk : k < s.pktLen.toNat) :
    s.packet.data.getD k 0 = s.readByte .scratch (3 + k) := by
  simp [State.packet, State.readSlice, hk]

/-- Settles O46: the payload view is a slice of SCRATCH, and a parse that finds a START writes it to
entry 0. -/
theorem scratchReadReadsScratch : Obligations.ScratchReadReadsScratch := by
  refine ⟨decodeRequest_scratchRead, fun j s => ⟨fun hj => ?entry, fun hj => ?range,
    fun k hc hk hmp => ?payload, fun t hs h hw => ?start⟩⟩
  case entry => exact ⟨_, exec_scratchRead_of_lt hj, OnlyResponds.respond s _ _ _ _, rfl⟩
  case range => exact ⟨_, exec_scratchRead_of_ge hj, Raised.raise .range s⟩
  case payload =>
    have hnat : (BitVec.ofNat 8 (3 + k)).toNat = 3 + k := by
      have := hc.2.1.2
      simp; omega
    refine ⟨_, exec_scratchRead_of_lt (by omega), ?_⟩
    rw [hnat, s.packet_data_getD hk]
    rfl
  case start =>
    obtain ⟨f, hf, hp⟩ := exec_decodeNext_finds hs h
    obtain ⟨hpos, hstart⟩ := hf.raw_of_start (by have := hs.maxPacket_ge; omega) hw
    obtain ⟨hscratch, -⟩ := hp.scratch
    exact (hscratch 0 hpos).trans hstart

/-! ## Packets in the recovered bytes (42_parser.md R167, R168) -/

/-- A complete packet: START's place, command, length, payload, checksum, and the bytes that are
ignored. -/
theorem exists_of_rawComplete {raw : List Byte} (h : rawComplete raw = true) :
    ∃ a cmd len data c rest, raw = a :: cmd :: len :: (data ++ c :: rest) ∧
      data.length = len.toNat := by
  simp only [rawComplete, Bool.and_eq_true, decide_eq_true_eq] at h
  obtain ⟨hthree, hlen⟩ := h
  match raw with
  | a :: cmd :: len :: tail =>
    simp only [List.getD_cons_succ, List.getD_cons_zero, List.length_cons] at hlen
    refine ⟨a, cmd, len, tail.take len.toNat, tail[len.toNat], tail.drop (len.toNat + 1), ?_, ?_⟩
    · rw [← List.drop_eq_getElem_cons, List.take_append_drop]
    · rw [List.length_take]; omega

theorem rawComplete_of_rawValid {raw : List Byte} (h : rawValid raw = true) :
    rawComplete raw = true := by
  simp only [rawValid, rawChecks, Bool.and_eq_true] at h
  obtain ⟨⟨hcomplete, -⟩, -⟩ := h
  exact hcomplete

section
variable {a cmd len c : Byte} {data rest : List Byte} (hdata : data.length = len.toNat)
include hdata

theorem rawChecks_packet :
    rawChecks (a :: cmd :: len :: (data ++ c :: rest)) = (chk (a :: cmd :: len :: data) == c) := by
  simp [rawChecks, rawComplete, ← hdata, Nat.add_comm 3]

theorem rawValid_packet : rawValid (a :: cmd :: len :: (data ++ c :: rest)) =
    (chk (a :: cmd :: len :: data) == c && cmd != 0x00) := by
  rw [rawValid, rawChecks_packet hdata]
  rfl

/-- The packet's data view is its payload. -/
theorem Parsed.packet_data {s t : State} {f : Finding} (h : Parsed f s t)
    (hraw : f.raw = a :: cmd :: len :: (data ++ c :: rest)) (hlen : t.pktLen = len) :
    t.packet.data = data := by
  obtain ⟨hscratch, -⟩ := h.scratch
  rw [State.packet, hlen, ← hdata]
  refine State.readSlice_eq_of fun j hj => ?_
  rw [hscratch (3 + j) (by rw [hraw]; simp; omega), hraw]
  simp [Nat.add_comm 3, List.getElem?_append_left hj, hj]

end

/-- Bytes at the front of what was recovered are START and the first raw bytes of the span
(42_parser.md R166). -/
theorem unstuff_of_spanRaw {mp : Nat} {mid ys : List Byte} {a : Byte}
    (h : a :: ys <+: spanRaw mp mid) : a = START ∧ ys <+: unstuff mid :=
  List.cons_prefix_cons.mp (h.trans (List.take_prefix _ _))

/-- Settles O44: the recovered bytes are those of the span, as far as SCRATCH holds them, and a
valid packet lies inside. -/
theorem validPacketsWereReceived : Obligations.ValidPacketsWereReceived := by
  intro s t hs h hcode
  obtain ⟨f, hf, hp⟩ := exec_decodeNext_finds hs h
  obtain ⟨pre, mid, post, hw, hmid, hpost, hmoved, hspan, hv, hcmd, hlen⟩ :=
    hf.span_of_valid ((hp.statusCode_eq_iff .valid).mp hcode)
  obtain ⟨a, cmd, len, data, c, rest, hraw, hdata⟩ :=
    exists_of_rawComplete (rawComplete_of_rawValid hv)
  obtain ⟨hstart, hfront⟩ := unstuff_of_spanRaw
    (show a :: (cmd :: len :: (data ++ [c])) <+: spanRaw s.cfg.maxPacket mid from
      ⟨rest, by rw [← hspan, hraw]; simp⟩)
  obtain ⟨htcmd, htlen, -⟩ := hp.reports
  simp only [hcmd, hlen, hraw, List.getD_cons_succ, List.getD_cons_zero] at htcmd htlen
  rw [hraw, rawValid_packet hdata, Bool.and_eq_true, beq_iff_eq, bne_iff_ne] at hv
  obtain ⟨hchk, hne⟩ := hv
  have hisValid : t.packet.isValid = true := by simp [State.packet, hcode]
  refine ⟨pre, mid, post, hw, hmid, hpost, by rwa [hp.tailMoved_eq hs hf.moved_le],
    hisValid, by rwa [htcmd], ?_⟩
  rw [hp.packet_data hdata hraw htlen, htcmd, htlen, ← hstart]
  simpa [← hchk, hdata] using List.prefix_iff_eq_take.mp hfront

/-! ## A frame that arrives byte by byte (42_parser.md R178) -/

theorem packStatus_incomplete : packStatus .incomplete false false false false = 0x01 := by decide

theorem packStatus_valid : packStatus .valid false false false false = 0x03 := by decide

/-- A cut inside an escape pair leaves no raw byte of it. -/
theorem unstuff_take_stuff (b : Byte) {n : Nat} (h : n < (stuff b).length) :
    unstuff ((stuff b).take n) = [] := by
  by_cases hb : b = START ∨ b = ESCAPE
  · rw [stuff, if_pos hb] at h ⊢
    match n with
    | 0 | 1 => rfl
  · rw [stuff, if_neg hb] at h ⊢
    match n with
    | 0 => rfl

/-- Part of a stuffed sequence holds fewer raw bytes than the whole. -/
theorem unstuff_take_stuffSeq (seq : List Byte) {n : Nat} (h : n < (stuffSeq seq).length) :
    ∃ k < seq.length, unstuff ((stuffSeq seq).take n) = seq.take k := by
  induction seq generalizing n with
  | nil => exact absurd h (Nat.not_lt_zero _)
  | cons b bs ih =>
    rw [stuffSeq_cons] at h ⊢
    by_cases hn : n < (stuff b).length
    · refine ⟨0, Nat.succ_pos _, ?_⟩
      rw [List.take_append_of_le_length hn.le]
      exact unstuff_take_stuff b hn
    · rw [List.length_append] at h
      obtain ⟨k, hk, htake⟩ := ih (n := n - (stuff b).length) (by omega)
      refine ⟨k + 1, by simpa using hk, ?_⟩
      rw [List.take_append, List.take_of_length_le (by omega), unstuff, unstuffFrom_stuff_append]
      exact congrArg _ htake

/-- What a span recovers from part of a stuffed sequence that fits SCRATCH. -/
theorem spanRaw_of_cut {mp : Nat} {mid rest seq : List Byte} (hcut : mid ++ rest = stuffSeq seq)
    (hrest : rest ≠ []) (hmp : seq.length + 1 ≤ mp) :
    ∃ k < seq.length, spanRaw mp mid = START :: seq.take k ∧ spanOverflows mp mid = false := by
  have hlt : mid.length < (stuffSeq seq).length := by
    have := List.length_pos_iff.mpr hrest
    rw [← hcut, List.length_append]; omega
  obtain ⟨k, hk, hunstuff⟩ := unstuff_take_stuffSeq seq hlt
  rw [← hcut, List.take_left] at hunstuff
  refine ⟨k, hk, ?_, ?_⟩
  · rw [spanRaw, hunstuff, List.take_of_length_le]
    simp; omega
  · rw [spanOverflows, hunstuff]
    simp; omega

/-- What a span recovers from a whole stuffed sequence that fits SCRATCH. -/
theorem spanRaw_stuffSeq {mp : Nat} {seq : List Byte} (hmp : seq.length + 1 ≤ mp) :
    spanRaw mp (stuffSeq seq) = START :: seq ∧ spanOverflows mp (stuffSeq seq) = false := by
  rw [spanRaw, spanOverflows, unstuff_stuffSeq]
  exact ⟨List.take_of_length_le hmp, decide_eq_false (by omega)⟩

section
variable {cmd len : Byte} {data : List Byte} (hdata : data.length = len.toNat)
include hdata

/-- The raw bytes of a packet cut short are no complete packet (42_parser.md R167). -/
theorem rawComplete_of_cut (c : Byte) {k : Nat} (hk : k < (cmd :: len :: (data ++ [c])).length) :
    rawComplete (START :: (cmd :: len :: (data ++ [c])).take k) = false := by
  match k with
  | 0 | 1 => rfl
  | k + 2 =>
    simp at hk
    simp [rawComplete]
    omega

variable {s : State} (hlen : len.toNat + 4 ≤ s.cfg.maxPacket)
include hlen

/-- DECODE_NEXT on a frame cut short finds an incomplete packet and takes nothing. -/
theorem finds_of_cutFrame {c : Byte} {mid rest : List Byte} (hw : s.window = START :: mid)
    (hcut : mid ++ rest = stuffSeq (cmd :: len :: (data ++ [c]))) (hrest : rest ≠ [])
    (hroom : s.pending ≠ s.cfg.rxCap - 1) :
    Finds s.cfg s.window
      { code := .incomplete, cmd := 0x00, len := 0x00, raw := spanRaw s.cfg.maxPacket mid,
        forced := false, ovf := false, recovered := false, cmdZero := false, moved := 0 } := by
  obtain ⟨k, hk, hraw, hovf⟩ := spanRaw_of_cut (mp := s.cfg.maxPacket) hcut hrest
    (by simp; omega)
  have hcomplete : rawComplete (spanRaw s.cfg.maxPacket mid) = false := by
    rw [hraw]; exact rawComplete_of_cut hdata c hk
  have hchecks : rawChecks (spanRaw s.cfg.maxPacket mid) = false := by
    rw [rawChecks, hcomplete]; rfl
  have hfull : fillsBuffer s.cfg s.window = false := by simpa [fillsBuffer] using hroom
  have hmid : START ∉ mid := fun h =>
    start_notMem_stuffSeq _ (hcut ▸ List.mem_append_left rest h)
  have hfinds : Finds s.cfg s.window _ := .held (pre := []) hw List.not_mem_nil hmid
    (by rw [rawValid, hchecks]; rfl)
  simpa [Finding.held, hovf, hcomplete, hfull, rawCmdZero, hchecks] using hfinds

/-- DECODE_NEXT on a whole frame consumes it and gives its packet. -/
theorem decodeNext_frame (hs : s.CursorsLegal) (hcmd : cmd ≠ 0x00)
    (hw : s.window = frame cmd len data (packetChk cmd len data)) :
    ∃ t, exec .decodeNext s = .next t ∧ t.pktStatus = 0x03 ∧ t.tail = t.head ∧
      t.packet = Packet.mk cmd len true data := by
  obtain ⟨hraw, hovf⟩ := spanRaw_stuffSeq (mp := s.cfg.maxPacket)
    (seq := cmd :: len :: (data ++ [packetChk cmd len data])) (by simp; omega)
  have hv : rawValid (START :: (cmd :: len :: (data ++ [packetChk cmd len data]))) = true :=
    (rawValid_packet (rest := []) hdata).trans
      (by simpa [packetChk] using hcmd)
  obtain ⟨t, hexec, hp⟩ := (Finds.consumed (pre := [])
    (mid := stuffSeq (cmd :: len :: (data ++ [packetChk cmd len data]))) hw List.not_mem_nil
    (start_notMem_stuffSeq _) (hraw ▸ hv)).parsed hs
  have hstatus := hp.status
  obtain ⟨htcmd, htlen, -⟩ := hp.reports
  simp only [Finding.consumed, hraw, hovf, List.getD_cons_succ, List.getD_cons_zero,
    packStatus_valid] at hstatus htcmd htlen
  have hpacket : t.packet = Packet.mk t.pktCmd t.pktLen
      (statusCode t.pktStatus == PktCode.code .valid) t.packet.data := rfl
  refine ⟨t, hexec, hstatus, (hp.tail_eq_head hs rfl).trans hp.head_eq.symm, ?_⟩
  rw [hpacket, htcmd, htlen, hstatus, hp.packet_data hdata (rest := []) hraw htlen]
  rfl

end

/-- What a DECODE_NEXT before the last byte of a frame leaves to be read. -/
abbrev StillIncomplete (tail : Byte) (t : State) : Prop :=
  t.pktCmd = 0x00 ∧ t.pktLen = 0x00 ∧ t.pktStatus = 0x01 ∧ t.tail = tail

/-- The rest of a frame whose first bytes are waiting, by induction on it. -/
theorem feedAndParse_frame {cmd len : Byte} {data : List Byte} (hcmd : cmd ≠ 0x00)
    (hdata : data.length = len.toNat) {s : State} (hs : s.CursorsLegal)
    (hlen : len.toNat + 4 ≤ s.cfg.maxPacket) {rest : List Byte} (hrest : rest ≠ [])
    (hw : s.window ++ rest = frame cmd len data (packetChk cmd len data))
    (hfit : (frame cmd len data (packetChk cmd len data)).length < s.cfg.rxCap) :
    ∃ ts t, feedAndParse rest s = some (ts ++ [t]) ∧ ts.length + 1 = rest.length ∧
      (∀ u ∈ ts, StillIncomplete s.tail u) ∧ t.pktStatus = 0x03 ∧ t.tail = t.head ∧
      t.packet = Packet.mk cmd len true data := by
  induction rest generalizing s with
  | nil => exact absurd rfl hrest
  | cons b rest ih =>
    have hroom : s.pending + rest.length + 1 < s.cfg.rxCap := by
      rw [← hw, List.length_append, State.length_window] at hfit
      exact hfit
    obtain ⟨u, hu, hus, hucfg, hutail, huw⟩ := hs.exec_rxWrite_stores b (by omega)
    have hall : ∀ {t}, exec .decodeNext u = .next t →
        execAll [.rxWrite b, .decodeNext] s = .next t := fun h => by simp only [execAll, hu, h]
    have huw' : u.window ++ rest = frame cmd len data (packetChk cmd len data) := by
      rw [huw, List.append_assoc]; exact hw
    rw [← hucfg] at hlen hfit
    by_cases hlast : rest = []
    · subst hlast
      rw [List.append_nil] at huw'
      obtain ⟨t, hexec, hresult⟩ := decodeNext_frame hdata hlen hus hcmd huw'
      exact ⟨[], t, by simp [feedAndParse, hall hexec], rfl, nofun, hresult⟩
    · obtain ⟨a, mid, hmid⟩ := List.exists_cons_of_ne_nil (l := u.window) (by rw [huw]; simp)
      obtain ⟨rfl, hcut⟩ := List.cons.inj (hmid ▸ huw')
      have hpending : u.pending = s.pending + 1 := by
        rw [← State.length_window, huw]; simp
      have hmore := List.length_pos_iff.mpr hlast
      obtain ⟨t, hexec, hp⟩ := (finds_of_cutFrame hdata hlen hmid hcut hlast
        (by rw [hpending, hucfg]; omega)).parsed hus
      obtain ⟨htcmd, htlen, -⟩ := hp.reports
      have htail := (hp.tail_eq_of_moved_zero hus rfl).trans hutail
      obtain ⟨ts, v, hfeed, hcount, hts, hresult⟩ := ih (hp.cursorsLegal hus)
        (by rwa [hp.cfg_eq]) hlast (by rw [hp.window]; exact huw') (by rwa [hp.cfg_eq])
      refine ⟨t :: ts, v, by simp [feedAndParse, hall hexec, hfeed], by simpa using hcount,
        fun x hx => ?_, hresult⟩
      rcases List.mem_cons.mp hx with rfl | hx
      · exact ⟨htcmd, htlen, hp.status.trans packStatus_incomplete, htail⟩
      · exact htail ▸ hts x hx

/-- Settles O45: the whole frame is the rest of one of which nothing has arrived yet. -/
theorem partialFramesReportNoPacket : Obligations.PartialFramesReportNoPacket := by
  intro s cmd len data hs hempty hcmd hdata hlen hfit
  have hmp := hs.maxPacket_ge
  have hcap := hs.cap_pos
  have hw : s.window = [] := by
    rw [← List.length_eq_zero_iff, State.length_window, State.pending, hempty]
    exact modSub_self _ hcap
  exact feedAndParse_frame hcmd hdata hs (by omega) (List.cons_ne_nil _ _) (by rw [hw]; rfl)
    (by omega)

end Sys2Proof.Machine
end

section
/-! The packet encoder (43_encoder.md): staging a payload (R200), the frame that ENCODE leaves in TXWIRE
(R201, R202), and reading it out (R204). -/

namespace Sys2Proof.Machine

/-! ## The request words of the encoder (30_encoding.md R79, R80) -/

theorem decodeRequest_txLoad (a b c : Byte) :
    decodeRequest (requestWord 0x0A a b c) = .txLoad a b := by simp [decodeRequest]

theorem decodeRequest_encode (a b c : Byte) :
    decodeRequest (requestWord 0x0B a b c) = .encode a b c := by simp [decodeRequest]

/-- Bit 8 of a 9-bit index weighs 256. -/
theorem toNat_ofBool_append (f : Bool) (a : Byte) :
    (BitVec.ofBool f ++ a : Word9).toNat = f.toNat * 256 + a.toNat := by
  have happend : (BitVec.ofBool f ++ a : Word9).toNat = f.toNat <<< 8 ||| a.toNat :=
    (BitVec.toNat_append (BitVec.ofBool f) a).trans (by rw [BitVec.toNat_ofBool])
  rw [happend, ← Nat.shiftLeft_add_eq_or_of_lt a.isLt, Nat.shiftLeft_eq]

theorem toNat_getLsbD_zero (b : Byte) : (b.getLsbD 0).toNat = b.toNat % 2 := by
  rw [BitVec.getLsbD, Nat.testBit_zero]
  rcases Nat.mod_two_eq_zero_or_one b.toNat with h | h <;> rw [h] <;> rfl

theorem decodeRequest_txRead (a b c : Byte) : decodeRequest (requestWord 0x0C a b c) =
    .txRead (BitVec.ofNat 9 ((b.toNat % 2) * 256 + a.toNat)) := by
  have hindex : fieldIndex9 (requestWord 0x0C a b c) =
      BitVec.ofNat 9 ((b.toNat % 2) * 256 + a.toNat) := by
    rw [fieldIndex9, Laws.fieldB0_eq, Laws.fieldB_requestWord, Laws.fieldA_requestWord,
      ← toNat_getLsbD_zero, ← toNat_ofBool_append, BitVec.ofNat_toNat, BitVec.setWidth_eq]
  rw [← hindex]
  simp [decodeRequest]

/-! ## The bytes of a frame (43_encoder.md R202) -/

/-- Stuffing takes no byte away (43_encoder.md R201). -/
theorem length_frame_ge (cmd len : Byte) (data : List Byte) (c : Byte) :
    data.length + 4 ≤ (frame cmd len data c).length := by
  have hstuff := length_stuffSeq_ge ([cmd, len] ++ data ++ [c])
  simp only [List.length_append, List.length_cons, List.length_nil] at hstuff
  rw [frame, List.length_cons]
  omega

/-- MAX_WIRE is the most a frame of MAX_DATA payload bytes can take (00_scope.md R7). -/
theorem length_frame_le_maxWire {k : Config} (hk : k.Legal) {data : List Byte}
    (hdata : data.length ≤ k.maxData) (cmd len c : Byte) :
    (frame cmd len data c).length ≤ k.maxWire := by
  have hle := length_frame_le cmd len data c
  obtain ⟨-, ⟨hmp, -⟩, -⟩ := hk
  unfold Config.maxData at hdata
  unfold Config.maxWire
  omega

/-- Settles O50: the stuffed bytes after the START hold no other, and each raw byte gives one or two of
them. -/
theorem framesHoldOneStartAndFit : Obligations.FramesHoldOneStartAndFit := by
  intro cmd len c data hdata
  rw [← hdata]
  exact ⟨rfl, start_notMem_stuffSeq _, length_frame_ge cmd len data c, length_frame_le cmd len data c,
    fun k hk hle => length_frame_le_maxWire hk hle cmd len c⟩

/-! ## What the encoder's requests do (43_encoder.md R200, R201, R204) -/

section
variable {s t : State} {cmd len delta : Byte}

theorem exec_txLoad_of_ge {j : Byte} (b : Byte) (h : s.cfg.maxData ≤ j.toNat) :
    exec (.txLoad j b) s = .next (s.raise .range) :=
  if_neg (mt (s.txDataOk_iff j).mp h.not_gt)

theorem exec_txRead_of_ge {j : Word9} (h : s.txLen.toNat ≤ j.toNat) :
    exec (.txRead j) s = .next (s.raise .range) :=
  if_neg (mt (s.txReadOk_iff j).mp h.not_gt)

theorem exec_encode (s : State) (cmd len delta : Byte) :
    exec (.encode cmd len delta) s = .next (s.encodeChecked cmd len delta) := rfl

/-- Any other command with a length above MAX_DATA is refused for its length (60_exceptions.md R232). -/
theorem State.encodeChecked_of_overlong (delta : Byte) (hcmd : cmd ≠ 0x00)
    (hlen : s.cfg.maxData < len.toNat) : s.encodeChecked cmd len delta = s.raise .encLen := by
  rcases s.encodeChecked_cases cmd len delta with ⟨hzero, -⟩ | ⟨-, -, he⟩ | ⟨-, hle, -⟩
  · exact absurd hzero hcmd
  · exact he
  · omega

/-- An encoder that answers OK has accepted its command and length. -/
theorem Encodes.of_answeredOk (hc : s.cfg.Legal)
    (hok : (s.encodeChecked cmd len delta).answeredOk = true) :
    Encodes cmd len delta s (s.encodeChecked cmd len delta) := by
  rcases s.encodeChecked_cases cmd len delta with ⟨-, he⟩ | ⟨-, -, he⟩ | ⟨hcmd, hlen, -⟩
  · rw [he, s.answeredOk_raise (e := .encCmd) nofun] at hok
    cases hok
  · rw [he, s.answeredOk_raise (e := .encLen) nofun] at hok
    cases hok
  · exact Encodes.encodeChecked delta hc hcmd hlen

/-- The frame in TXWIRE, entry by entry (43_encoder.md R201). -/
theorem Encodes.readByte_txWire (h : Encodes cmd len delta s t) {j : Nat}
    (hj : j < t.wireBytes.length) : t.readByte .txWire j = t.wireBytes.getD j 0 := by
  rw [h.wireBytes] at hj ⊢
  obtain ⟨hwire, -⟩ := h
  exact hwire j hj

/-- Entry 0 of a frame is START (20_memory.md R52). -/
theorem Encodes.start (h : Encodes cmd len delta s t) : t.readByte .txWire 0 = START := by
  obtain ⟨hwire, -⟩ := h
  exact hwire 0 (Nat.succ_pos _)

@[simp] theorem State.length_wireBytes (s : State) : s.wireBytes.length = s.txLen.toNat :=
  s.length_readSlice .txWire 0 _

/-- TX_LEN after an accepted ENCODE is the length of a frame with that payload length (43_encoder.md
R201). -/
theorem Encodes.txLen_bounds (h : Encodes cmd len delta s t) (hc : s.cfg.Legal)
    (hlen : len.toNat ≤ s.cfg.maxData) :
    len.toNat + 4 ≤ t.txLen.toNat ∧ t.txLen.toNat ≤ 2 * len.toNat + 7 ∧
      t.txLen.toNat ≤ s.cfg.maxWire := by
  rw [← t.length_wireBytes, h.wireBytes]
  obtain ⟨-, -, hge, hle, hwire⟩ := framesHoldOneStartAndFit cmd len
    (packetChk cmd len (s.readSlice .txData 0 len.toNat) + delta)
    (s.readSlice .txData 0 len.toNat) (s.length_readSlice _ _ _)
  exact ⟨hge, hle, hwire s.cfg hc hlen⟩

/-- The last frame is read off TX_LEN and TXWIRE alone. -/
theorem State.wireBytes_of_keeps (hlen : t.txLen = s.txLen) (htw : KeepsSpace .txWire s t) :
    t.wireBytes = s.wireBytes := by
  rw [State.wireBytes, State.wireBytes, hlen]
  exact htw.readSlice 0 _

/-- An encoder row that answers an error leaves the last frame to be read (43_encoder.md R204). -/
theorem wireBytes_of_encoder_error {i : Instr} (henc : runsEncoder i = true)
    (h : exec i s = .next t) (herr : t.answeredOk = false) : t.wireBytes = s.wireBytes := by
  obtain ⟨cmd, len, delta, he⟩ := exec_of_runsEncoder henc s
  obtain rfl := Host.Outcome.next.inj (he.symm.trans h)
  rcases s.encodeChecked_cases cmd len delta with ⟨-, he⟩ | ⟨-, -, he⟩ | ⟨-, -, he⟩ <;> rw [he]
  · exact (Raised.raise .encCmd s).2.wireBytes
  · exact (Raised.raise .encLen s).2.wireBytes
  · rw [he] at herr
    cases herr

end

/-! ## The obligations -/

/-- Settles O47, on the two sides of MAX_DATA; that no other row writes TXDATA is O19's. -/
theorem txLoadStagesAPayloadByte : Obligations.TxLoadStagesAPayloadByte := by
  refine ⟨decodeRequest_txLoad, fun j byte s => ⟨fun hj => ?stored, fun hj => ?range,
    fun i t h hi => ?otherRow⟩⟩
  case stored =>
    have hexec := exec_txLoad_of_lt (s := s) byte hj
    obtain ⟨hsur, hcur, hres, hlen, hrx, hscr, htw⟩ := exec_txLoad_keeps hexec
    exact ⟨_, hexec, rfl, cellAt_write_same _ _ _ _ _, fun _ => cellAt_write_of_ne _ _ _ _, hcur,
      hres, hlen, hsur, hrx, hscr, htw⟩
  case range => exact ⟨_, exec_txLoad_of_ge byte hj, Raised.raise .range s⟩
  case otherRow =>
    obtain ⟨-, -, -, -, htd, -⟩ := onlyTheNamedOperationsWrite i s t h
    exact htd hi

/-- Settles O48, check by check. -/
theorem encodeBuildsTheFrame : Obligations.EncodeBuildsTheFrame := by
  refine ⟨decodeRequest_encode, fun cmd len delta s hc => ?_⟩
  rw [exec_encode]
  refine ⟨fun hzero => ?encCmd, fun hcmd hlong => ?encLen, fun hcmd hlen => ?accepted⟩
  case encCmd =>
    subst hzero
    exact ⟨_, rfl, Raised.raise .encCmd s⟩
  case encLen =>
    rw [State.encodeChecked_of_overlong delta hcmd hlong]
    exact ⟨_, rfl, Raised.raise .encLen s⟩
  case accepted =>
    have henc := Encodes.encodeChecked delta hc hcmd hlen
    obtain ⟨hge, hle, hwire⟩ := henc.txLen_bounds hc hlen
    exact ⟨_, rfl, henc, hge, hle, hwire, henc.start⟩

/-- Settles O51: a TX_LOAD writes neither TXWIRE nor TX_LEN. -/
theorem encodedFrameReadsOut : Obligations.EncodedFrameReadsOut := by
  intro cmd len delta s hc hcmd hlen
  have henc := Encodes.encodeChecked delta hc hcmd hlen
  refine ⟨_, _, exec_encode s cmd len delta, henc.wireBytes, rfl, fun j hj => ?_, fun j b v h => ?_⟩
  · refine ⟨_, exec_txRead_of_lt (by rwa [← State.length_wireBytes]), ?_⟩
    rw [henc.readByte_txWire hj]
    rfl
  · obtain ⟨-, -, -, hlen, -, -, htw⟩ := exec_txLoad_keeps h
    exact State.wireBytes_of_keeps hlen htw

/-- Settles O49: the frame is written by the encoder rows alone, and by those only with an OK answer. -/
theorem txReadReadsTheFrame : Obligations.TxReadReadsTheFrame := by
  refine ⟨decodeRequest_txRead, fun j s => ⟨fun hj => ?entry, fun hj => ?range,
    fun cmd len delta t hc h hok => ?start, fun i t h hkeep => ?kept⟩⟩
  case entry => exact ⟨_, exec_txRead_of_lt hj, OnlyResponds.respond s _ _ _ _, rfl⟩
  case range => exact ⟨_, exec_txRead_of_ge hj, Raised.raise .range s⟩
  case start =>
    obtain rfl := Host.Outcome.next.inj ((exec_encode s cmd len delta).symm.trans h)
    have henc := Encodes.of_answeredOk hc hok
    have hpos : 0 < (s.encodeChecked cmd len delta).txLen.toNat := by
      rw [← State.length_wireBytes, henc.wireBytes]
      exact Nat.succ_pos _
    refine ⟨_, exec_txRead_of_lt hpos, ?_⟩
    rw [show (0 : Word9).toNat = 0 from rfl, henc.start]
    rfl
  case kept =>
    cases henc : runsEncoder i with
    | false =>
      obtain ⟨-, -, -, -, -, htx⟩ := onlyTheNamedOperationsWrite i s t h
      obtain ⟨hlen, htw⟩ := htx henc
      exact State.wireBytes_of_keeps hlen htw
    | true =>
      exact wireBytes_of_encoder_error henc h (hkeep.resolve_left (by simp [henc]))

/-- Settles O54: each row is the encoder on its own command, which is not 0x00. -/
theorem overlongCommandRowsAreRefused : Obligations.OverlongCommandRowsAreRefused := by
  intro i len s hlong hrow
  have hencoder : ∃ cmd, cmd ≠ 0x00 ∧ exec i s = .next (s.encodeChecked cmd len 0) := by
    rcases hrow with rfl | rfl | rfl | rfl | rfl | rfl | rfl | rfl | rfl | rfl | rfl | rfl | rfl |
      ⟨cmd, hcmd, rfl⟩
    exacts [⟨0x01, by decide, rfl⟩, ⟨0x02, by decide, rfl⟩, ⟨0x03, by decide, rfl⟩,
      ⟨0x04, by decide, rfl⟩, ⟨0x06, by decide, rfl⟩, ⟨0x07, by decide, rfl⟩,
      ⟨0x09, by decide, rfl⟩, ⟨0x0A, by decide, rfl⟩, ⟨0x0B, by decide, rfl⟩,
      ⟨0x0C, by decide, rfl⟩, ⟨0x10, by decide, rfl⟩, ⟨0xEE, by decide, rfl⟩,
      ⟨0xF0, by decide, rfl⟩, ⟨cmd, hcmd, rfl⟩]
  obtain ⟨cmd, hcmd, hexec⟩ := hencoder
  rw [State.encodeChecked_of_overlong 0 hcmd hlong] at hexec
  exact ⟨_, hexec, Raised.raise .encLen s⟩

end Sys2Proof.Machine
end

section
/-! Encoder and parser together (43_encoder.md R203, R206, R207): a frame written into the receive buffer
comes back as its packet, and a frame whose checksum does not match its bytes is never VALID. -/

namespace Sys2Proof.Machine

/-! ## Writing a frame into the buffer (30_encoding.md R87) -/

/-- What every RX_WRITE keeps, RX_WRITE_N keeps. -/
theorem rxWriteN_keeps {P : State → Prop}
    (hwrite : ∀ b s t, P s → exec (.rxWrite b) s = .next t → P t) (bs : List Byte) {s : State}
    (hs : P s) : P (rxWriteN bs s).2 := by
  induction bs generalizing s with
  | nil => exact hs
  | cons b bs ih =>
    obtain ⟨t, h⟩ : ∃ t, exec (.rxWrite b) s = .next t := by
      cases hfull : s.full with
      | true => exact ⟨_, exec_rxWrite_of_full b hfull⟩
      | false => exact ⟨_, exec_rxWrite_of_room b hfull⟩
    cases hok : t.answeredOk with
    | true => rw [rxWriteN_cons_of_ok b bs h hok]; exact ih (hwrite b s t hs h)
    | false => rw [rxWriteN_cons_of_error b bs h hok]; exact hwrite b s t hs h

theorem exec_rxWrite_cursorsLegal {s t : State} {b : Byte} (hs : s.CursorsLegal)
    (h : exec (.rxWrite b) s = .next t) : t.CursorsLegal := by
  rcases exec_rxWrite_cases h with ⟨-, rfl⟩ | ⟨-, n, rfl⟩
  · exact hs
  · exact hs.receive b

section
variable {s : State} (hs : s.CursorsLegal)
include hs

/-- Equal cursors leave nothing unread (10_state.md R26). -/
theorem State.CursorsLegal.window_of_empty (hempty : s.head = s.tail) : s.window = [] := by
  rw [← List.length_eq_zero_iff, State.length_window, State.pending, hempty]
  exact modSub_self _ hs.cap_pos

/-- Bytes that fit an empty buffer are all written, and are then the unread ones (41_rxbuffer.md
R131). -/
theorem State.CursorsLegal.rxWriteN_of_empty (hempty : s.head = s.tail) {bs : List Byte}
    (hfit : bs.length ≤ s.cfg.rxCap - 1) :
    ∃ u, rxWriteN bs s = (bs.length, u) ∧ u.CursorsLegal ∧ u.cfg = s.cfg ∧ u.window = bs := by
  have hw := hs.window_of_empty hempty
  have hpending : s.pending = 0 := by rw [← State.length_window, hw]; rfl
  obtain ⟨hcount, hwindow, -⟩ := rxWriteNWritesWhatFits bs s hs
  rw [hpending, Nat.sub_zero, min_eq_left hfit] at hcount
  obtain ⟨hlegal, hcfg⟩ := rxWriteN_keeps (P := fun u => u.CursorsLegal ∧ u.cfg = s.cfg)
    (fun _ _ _ ⟨hv, hvcfg⟩ h => ⟨exec_rxWrite_cursorsLegal hv h,
      (exec_keeps_surroundings h).1.trans hvcfg⟩) bs ⟨hs, rfl⟩
  exact ⟨_, Prod.ext hcount rfl, hlegal, hcfg, by rw [hwindow, hw, hcount]; simp⟩

end

/-! ## What a parse finds of a frame -/

/-- The raw bytes of a packet after its START: command, length, payload and checksum (43_encoder.md
R202). -/
def packetBytes (cmd len : Byte) (data : List Byte) (c : Byte) : List Byte :=
  cmd :: len :: (data ++ [c])

theorem frame_eq_stuffSeq (cmd len : Byte) (data : List Byte) (c : Byte) :
    frame cmd len data c = START :: stuffSeq (packetBytes cmd len data c) := rfl

theorem length_packetBytes (cmd len : Byte) (data : List Byte) (c : Byte) :
    (packetBytes cmd len data c).length = data.length + 3 := by simp [packetBytes]

section
variable {cmd len c : Byte} {data pre post : List Byte} {s t : State} (hs : s.CursorsLegal)
  (hdata : data.length = len.toNat) (hlen : len.toNat ≤ s.cfg.maxPacket - 4)

include hs hdata hlen in
/-- A packet's bytes come back from the span of its frame, none of them lost to the cap. -/
theorem State.CursorsLegal.spanRaw_frame (cmd c : Byte) :
    spanRaw s.cfg.maxPacket (stuffSeq (packetBytes cmd len data c)) =
        START :: packetBytes cmd len data c ∧
      spanOverflows s.cfg.maxPacket (stuffSeq (packetBytes cmd len data c)) = false := by
  have hmp := hs.maxPacket_ge
  exact spanRaw_stuffSeq (by rw [length_packetBytes]; omega)

include hdata

theorem rawComplete_packetBytes :
    rawComplete (START :: packetBytes cmd len data c) = true := by
  simp [packetBytes, rawComplete, ← hdata]

/-- A packet is valid where its checksum byte is its CHK and its command is not 0x00 (42_parser.md
R168). -/
theorem rawValid_packetBytes : rawValid (START :: packetBytes cmd len data c) =
    (packetChk cmd len data == c && cmd != 0x00) :=
  rawValid_packet (rest := []) hdata

include hs hlen

/-- A frame of an accepted packet is found VALID with the packet's fields and no flag. -/
theorem finds_frame (hcmd : cmd ≠ 0x00)
    (hw : s.window = frame cmd len data (packetChk cmd len data)) :
    Finds s.cfg s.window
      { code := .valid, cmd := cmd, len := len,
        raw := START :: packetBytes cmd len data (packetChk cmd len data), forced := false,
        ovf := false, recovered := false, cmdZero := false, moved := s.window.length } := by
  rw [frame_eq_stuffSeq] at hw
  obtain ⟨hraw, hovf⟩ := hs.spanRaw_frame hdata hlen cmd (packetChk cmd len data)
  have hv : rawValid (START :: packetBytes cmd len data (packetChk cmd len data)) = true := by
    rw [rawValid_packetBytes hdata]
    simpa using hcmd
  have hfinds : Finds s.cfg s.window _ := .consumed (pre := []) hw List.not_mem_nil
    (start_notMem_stuffSeq _) (hraw ▸ hv)
  rw [Finding.consumed, hraw, hovf] at hfinds
  exact hfinds

/-- DECODE_NEXT on a pending frame whose checksum byte is not its packet's CHK: HELD_INVALID while
nothing follows it, RESYNC once the next START does (42_parser.md R169, R171). -/
theorem statusCode_of_wrongChecksum (hpre : START ∉ pre) (hpost : endsRegion post = true)
    (hw : s.window = pre ++ frame cmd len data c ++ post) (hchk : packetChk cmd len data ≠ c)
    (h : exec .decodeNext s = .next t) :
    statusCode t.pktStatus =
      if post = [] then PktCode.code .heldInvalid else PktCode.code .resync := by
  rw [frame_eq_stuffSeq] at hw
  obtain ⟨hraw, -⟩ := hs.spanRaw_frame hdata hlen cmd c
  have hmid : START ∉ stuffSeq (packetBytes cmd len data c) := start_notMem_stuffSeq _
  have hv : rawValid (spanRaw s.cfg.maxPacket (stuffSeq (packetBytes cmd len data c))) = false := by
    rw [hraw, rawValid_packetBytes hdata, beq_false_of_ne hchk]
    rfl
  rcases (endsRegion_iff post).mp hpost with rfl | ⟨rest, rfl⟩
  · rw [List.append_nil] at hw
    obtain ⟨u, hu, hp⟩ := (Finds.held hw hpre hmid hv).parsed hs
    obtain rfl := Host.Outcome.next.inj (hu.symm.trans h)
    rw [if_pos rfl, hp.statusCode_eq_iff]
    simp only [Finding.held]
    rw [hraw, if_pos (rawComplete_packetBytes hdata)]
  · obtain ⟨u, hu, hp⟩ := (Finds.forcedOut (c := s.cfg) hw hpre hmid).parsed hs
    obtain rfl := Host.Outcome.next.inj (hu.symm.trans h)
    rw [if_neg (List.cons_ne_nil _ _), hp.statusCode_eq_iff]
    simp only [Finding.forcedOut]
    rw [hv, if_neg Bool.false_ne_true]

end

/-! ## The checksum of a changed payload (40_codec.md R106) -/

/-- Changing one byte moves CHK by the difference. -/
theorem chk_set {data : List Byte} {j : Nat} (hj : j < data.length) (v : Byte) :
    chk (data.set j v) = chk data + data.getD j 0 - v := by
  have hsplit : data.take j ++ data[j] :: data.drop (j + 1) = data := by simp
  have hchk : chk data = chk (data.take j) + (chk (data.drop (j + 1)) - data[j]) := by
    rw [← chk_cons, ← chk_append, hsplit]
  rw [List.set_eq_take_append_cons_drop, if_pos hj, List.getD_eq_getElem _ _ hj, chk_append, chk_cons,
    hchk]
  ring

theorem packetChk_set_ne {data : List Byte} {j : Nat} (hj : j < data.length) {v : Byte}
    (hv : v ≠ data.getD j 0) (cmd len : Byte) :
    packetChk cmd len (data.set j v) ≠ packetChk cmd len data := by
  intro he
  rw [packetChk, packetChk, chk_append, chk_append, chk_set hj] at he
  exact hv (by linear_combination -he)

/-! ## The obligations -/

/-- Settles O56: CHK moved by a nonzero offset is not CHK. -/
theorem corruptChecksumIsNeverValid : Obligations.CorruptChecksumIsNeverValid :=
  fun _ _ _ _ _ _ _ _ hs hdelta hdata hlen hpre hpost hw h =>
    statusCode_of_wrongChecksum hs hdata hlen hpre hpost hw (mt left_eq_add.mp hdelta) h

/-- Settles O57: the kept checksum is not CHK of the changed payload. -/
theorem oneChangedPayloadByteIsNeverValid : Obligations.OneChangedPayloadByteIsNeverValid :=
  fun _ _ cmd len _ _ _ _ _ hs hj hv hdata hlen hpre hpost hw h =>
    statusCode_of_wrongChecksum hs (List.length_set.trans hdata) hlen hpre hpost hw
      (packetChk_set_ne hj hv cmd len) h

/-- Settles O55, request by request: ENCODE leaves the frame in TXWIRE and the cursors as they were,
RX_WRITE_N makes it the window, and the parse finds the packet in it. -/
theorem encodeThenDecodeGivesThePacketBack : Obligations.EncodeThenDecodeGivesThePacketBack := by
  intro s cmd len hs hempty hcmd hlen hfit
  have henc := Encodes.encodeChecked 0 hs.1 hcmd hlen
  have hencode := exec_encode s cmd len 0
  generalize s.encodeChecked cmd len 0 = t at henc hencode
  have hdata : (s.readSlice .txData 0 len.toNat).length = len.toNat := s.length_readSlice _ _ _
  generalize hpayload : s.readSlice .txData 0 len.toNat = data at hfit hdata ⊢
  have hwire := henc.wireBytes
  rw [hpayload, add_zero] at hwire
  obtain ⟨-, -, -, -, ⟨hhead, htail⟩, -, ⟨hcfg, -⟩, -⟩ := henc
  have ht : t.CursorsLegal := by rwa [State.CursorsLegal, hcfg, hhead, htail]
  obtain ⟨u, hwritten, hu, hucfg, huw⟩ := ht.rxWriteN_of_empty (bs := t.wireBytes)
    (by rw [hhead, htail, hempty]) (by rwa [hwire, hcfg])
  rw [hwire] at huw
  rw [← hcfg, ← hucfg] at hlen
  obtain ⟨v, hdecode, -, hvtail, hpacket⟩ :=
    decodeNext_frame hdata (by have := hu.maxPacket_ge; omega) hu hcmd huw
  obtain ⟨v', hdecode', hp⟩ := (finds_frame hu hdata hlen hcmd huw).parsed hu
  obtain rfl := Host.Outcome.next.inj (hdecode.symm.trans hdecode')
  have hcount : (START :: packetBytes cmd len data (packetChk cmd len data)).length =
      len.toNat + 4 := by rw [List.length_cons, length_packetBytes, hdata]
  have hreports : Reports v .valid cmd len (len.toNat + 4) false false false false :=
    hcount ▸ hp.reports
  have hvlen : v.pktLen = len := hreports.2.1
  have hview : v.readSlice .scratch 3 v.pktLen.toNat = data := congrArg Packet.data hpacket
  exact ⟨t, u, v, hencode, by rw [hwritten, State.length_wireBytes], hdecode, hreports,
    by rwa [hvlen] at hview, hpacket, hvtail⟩

end Sys2Proof.Machine
end

section
/-! Errors and the producer port (60_exceptions.md): no instruction and no step stops the block (R230), an
instruction answers OK or raises an error of its own row of R231 and then changes nothing, and the
producer port runs RX_WRITE or refuses (R239). -/

namespace Sys2Proof.Machine

/-! ## Every instruction and every step goes on (60_exceptions.md R230) -/

theorem GoesOn.ite {c : Prop} [Decidable c] {o o' : Host.Outcome State Fault Refusal}
    (h : GoesOn o) (h' : GoesOn o') : GoesOn (if c then o else o') := by
  split <;> assumption

/-- Only the operand checks branch, and both branches answer. -/
theorem exec_goesOn (i : Instr) (s : State) : GoesOn (exec i s) := by
  cases i with
  | rxWrite | rxPeek | scratchRead | txLoad | txRead => exact GoesOn.ite ⟨_, rfl⟩ ⟨_, rfl⟩
  | rxAdvance => exact GoesOn.ite ⟨_, rfl⟩ (GoesOn.ite ⟨_, rfl⟩ ⟨_, rfl⟩)
  | _ => exact ⟨_, rfl⟩

theorem step_of_asserted {s : State} (hline : s.resetLine = true) : step s = .next s.holdReset :=
  if_pos hline

/-! ## Which errors an instruction can raise (60_exceptions.md R231) -/

@[simp] theorem Status.code_inj {d e : Status} : d.code = e.code ↔ d = e := by
  cases d <;> cases e <;> decide

theorem State.answeredOk_iff {s : State} :
    s.answeredOk = true ↔ ∃ r, s.response = some r ∧ r.status = Status.code .ok := by
  unfold State.answeredOk
  cases s.response <;> simp

/-- R231's table: the errors listed for each instruction. -/
inductive MayRaise : Instr → Status → Prop
  | rxWrite (b : Byte) : MayRaise (.rxWrite b) .full
  | rxPeek (o : Byte) : MayRaise (.rxPeek o) .range
  | rxAdvance (n : Byte) : MayRaise (.rxAdvance n) .range
  | scratchRead (j : Byte) : MayRaise (.scratchRead j) .range
  | txLoad (j b : Byte) : MayRaise (.txLoad j b) .range
  | txRead (j : Word9) : MayRaise (.txRead j) .range
  | encLen {i : Instr} (henc : runsEncoder i = true) : MayRaise i .encLen
  | encCmd {i : Instr} (henc : runsEncoder i = true) : MayRaise i .encCmd
  | illegal (op : Byte) : MayRaise (.illegal op) .illegalOp

section
variable {i : Instr} {e : Status}

/-- The operations that accept every operand have no error in the table. -/
theorem not_mayRaise_of_total (hi : (∃ raw, i = .encByte raw) ∨ (∃ w f, i = .decByte w f) ∨
    i = .rxPending ∨ (∃ j, i = .rxReadAt j) ∨ i = .decodeNext) : ¬ MayRaise i e := by
  have henc : runsEncoder i = false := by
    rcases hi with ⟨raw, rfl⟩ | ⟨w, f, rfl⟩ | rfl | ⟨j, rfl⟩ | rfl <;> rfl
  intro he
  cases he with
  | encLen h | encCmd h => exact Bool.false_ne_true (henc.symm.trans h)
  | _ => simp at hi

theorem MayRaise.range_sources (h : MayRaise i .range) : (∃ o, i = .rxPeek o) ∨
    (∃ n, i = .rxAdvance n) ∨ (∃ j, i = .scratchRead j) ∨ (∃ j b, i = .txLoad j b) ∨
      ∃ j, i = .txRead j := by
  cases h <;> simp

theorem MayRaise.runsEncoder_eq (h : MayRaise i e) (he : e = .encLen ∨ e = .encCmd) :
    runsEncoder i = true := by
  cases h with
  | encLen henc | encCmd henc => exact henc
  | _ => simp at he

variable {s t : State}

/-- An instruction answers OK, or all it has done is raise an error of its own row. -/
theorem exec_ok_or_raises (h : exec i s = .next t) :
    t.answeredOk = true ∨ ∃ e, MayRaise i e ∧ t = s.raise e := by
  by_cases henc : runsEncoder i = true
  · obtain ⟨cmd, len, delta, he⟩ := exec_of_runsEncoder henc s
    obtain rfl := Host.Outcome.next.inj (he.symm.trans h)
    rcases s.encodeChecked_cases cmd len delta with ⟨-, he⟩ | ⟨-, -, he⟩ | ⟨-, -, he⟩
    · exact .inr ⟨_, .encCmd henc, he⟩
    · exact .inr ⟨_, .encLen henc, he⟩
    · exact .inl (he ▸ rfl)
  · cases i
    case rxWrite b =>
      rcases exec_rxWrite_cases h with ⟨-, rfl⟩ | ⟨-, n, rfl⟩
      · exact .inr ⟨_, .rxWrite b, rfl⟩
      · exact .inl rfl
    case rxPeek o =>
      rcases exec_rxPeek_cases h with ⟨-, rfl⟩ | ⟨-, rfl⟩
      · exact .inl rfl
      · exact .inr ⟨_, .rxPeek o, rfl⟩
    case rxAdvance n =>
      rcases exec_rxAdvance_cases h with ⟨-, rfl⟩ | ⟨-, -, rfl⟩
      · exact .inr ⟨_, .rxAdvance n, rfl⟩
      · exact .inl rfl
    case scratchRead j =>
      rcases exec_scratchRead_cases h with ⟨-, rfl⟩ | ⟨-, rfl⟩
      · exact .inl rfl
      · exact .inr ⟨_, .scratchRead j, rfl⟩
    case txLoad j b =>
      rcases exec_txLoad_cases h with ⟨-, rfl⟩ | ⟨-, rfl⟩
      · exact .inl rfl
      · exact .inr ⟨_, .txLoad j b, rfl⟩
    case txRead j =>
      rcases exec_txRead_cases h with ⟨-, rfl⟩ | ⟨-, rfl⟩
      · exact .inl rfl
      · exact .inr ⟨_, .txRead j, rfl⟩
    case illegal op =>
      cases h
      exact .inr ⟨_, .illegal op, rfl⟩
    case encByte | decByte | rxPending | rxReadAt | decodeNext | start | escape | literal | escStart |
        escEscape | escPair =>
      cases h
      exact .inl rfl
    all_goals exact absurd rfl henc

end

/-! ## The producer port's decoder (60_exceptions.md R239) -/

section
variable {w : RequestWord}

theorem decodeProducer_of_rxWrite (h : fieldOp w = 0x03) :
    decodeProducer w = .rxWrite (fieldA w) := if_pos h

theorem decodeProducer_of_ne (h : fieldOp w ≠ 0x03) :
    decodeProducer w = .illegal (fieldOp w) := if_neg h

end

/-! ## The obligations -/

/-- Settles O16: a step resets, idles or runs one instruction, and every instruction goes on. -/
theorem noStepStopsTheBlock : Obligations.NoStepStopsTheBlock := by
  intro s
  cases hline : s.resetLine with
  | true => exact ⟨_, step_of_asserted hline⟩
  | false =>
    cases ha : s.accept with
    | none => exact ⟨s, step_of_accept_none hline ha⟩
    | some a => exact step_of_accept hline ha ▸ exec_goesOn a.instr a.state

/-- Settles O17: an answer other than OK comes from `State.raise` alone. -/
theorem errorsLeaveAllStateAsItWas : Obligations.ErrorsLeaveAllStateAsItWas := by
  intro i s t r h hr hne
  rcases exec_ok_or_raises h with hok | ⟨e, -, rfl⟩
  · obtain ⟨r', hr', hst⟩ := State.answeredOk_iff.mp hok
    obtain rfl := Option.some.inj (hr.symm.trans hr')
    exact absurd hst hne
  · obtain ⟨hanswer, honly⟩ := Raised.raise e s
    obtain rfl := Option.some.inj (hanswer.symm.trans hr)
    exact ⟨honly, rfl, rfl, rfl, rfl⟩

/-- Settles O18: an OK answer has none of the error codes, and an error is one that R231's table lists for
the instruction. -/
theorem statusCodesPerOperation : Obligations.StatusCodesPerOperation := by
  intro i s
  obtain ⟨t, h⟩ := exec_goesOn i s
  rcases exec_ok_or_raises h with hok | ⟨e, he, rfl⟩
  · obtain ⟨⟨status, r0, r1, r2, r3⟩, hr, hst⟩ := State.answeredOk_iff.mp hok
    obtain rfl : status = Status.code .ok := hst
    have hill : ∀ op, i ≠ .illegal op := by
      rintro op rfl
      cases h
      cases hok
    exact ⟨t, _, h, hr, Status.code_toNat_le .ok, by simp, by simp, by simp, by simp [hill],
      fun _ => rfl⟩
  · refine ⟨_, _, h, rfl, e.code_toNat_le, ?_⟩
    simp only [Status.code_inj]
    refine ⟨?_, ?_, he.runsEncoder_eq, ⟨?_, ?_⟩, fun hi => absurd he (not_mayRaise_of_total hi)⟩
    · rintro rfl
      cases he with
      | rxWrite b => exact ⟨b, rfl⟩
    · rintro rfl
      exact he.range_sources
    · rintro rfl
      cases he with
      | illegal op => exact ⟨op, rfl⟩
    · rintro ⟨op, rfl⟩
      cases he with
      | illegal => rfl
      | encLen henc | encCmd henc => cases henc

/-- Settles O8: the step runs what the producer port's decoder makes of the word, which is RX_WRITE, whose
writes are RXBUF and HEAD alone, or ILLEGAL, which is refused. -/
theorem producerPortOnlyWritesHeadAndBuffer : Obligations.ProducerPortOnlyWritesHeadAndBuffer := by
  intro s t w ws hline hw hports hr h
  rw [stepRunsTheAcceptedRequest.2 s w ws hline hw hports hr] at h
  by_cases hop : fieldOp w = 0x03
  · have hdec := decodeProducer_of_rxWrite hop
    rw [hdec] at h
    obtain ⟨-, htail, hres, hlen, hscr, htd, htw⟩ := exec_rxWrite_keeps h
    exact ⟨htail, hres, hlen, hscr, htd, htw, fun _ => hdec, fun hne => absurd hop hne⟩
  · rw [decodeProducer_of_ne hop] at h
    cases h
    obtain ⟨hanswer, ⟨hhead, htail⟩, hres, hlen, -, hsp⟩ :=
      Raised.raise .illegalOp (s.accepting .producer s.requesterQ ws)
    exact ⟨htail, hres, hlen, hsp _, hsp _, hsp _, fun heq => absurd heq hop,
      fun _ => ⟨hanswer, hhead, hsp _⟩⟩

end Sys2Proof.Machine
end

section
/-! Reset and hazards (70_reset_and_hazards.md): what asserting, holding and releasing the reset input
leaves (R260, R261), the build parameters (R262), the reads that stay refused after reset until their
first write (R263), and RX_ADVANCE to a HEAD read earlier (R271). -/

namespace Sys2Proof.Machine

/-! ## The reset input (70_reset_and_hazards.md R260, R261) -/

section
variable {s : State}

/-- What is presented at the requester port while reset is asserted is lost. -/
theorem State.present_of_asserted (h : s.resetLine = true) (r : Request) : s.present r = s := by
  rw [State.present, if_pos h]

/-- What is presented at the producer port while reset is asserted is lost. -/
theorem State.presentProducer_of_asserted (h : s.resetLine = true) (w : RequestWord) :
    s.presentProducer w = s := by
  rw [State.presentProducer, if_pos h]

end

/-- Asserting and releasing reset applies the reset table twice, whatever is presented in between. -/
theorem State.driveReset_present_driveReset (s : State) (r : Request) (w : RequestWord) :
    (((s.driveReset true).present r).presentProducer w).driveReset false =
      (s.takeReset true).takeReset false := by
  have hline : (s.takeReset true).resetLine = true := rfl
  rw [State.driveReset_true, State.present_of_asserted hline, State.presentProducer_of_asserted hline,
    State.driveReset_false_of_asserted hline]

/-! ## Runs of several instructions -/

/-- What every instruction of a kind keeps, a run of instructions of that kind keeps. -/
theorem execAll_keeps {P : State → Prop} {K : Instr → Prop}
    (hexec : ∀ i s t, K i → P s → exec i s = .next t → P t) {is : List Instr} {s t : State}
    (hK : ∀ i ∈ is, K i) (hs : P s) (h : execAll is s = .next t) : P t := by
  induction is generalizing s with
  | nil => exact Host.Outcome.next.inj h ▸ hs
  | cons i is ih =>
    obtain ⟨u, hu⟩ := exec_goesOn i s
    simp only [execAll, hu] at h
    exact ih (fun j hj => hK j (List.mem_cons_of_mem i hj))
      (hexec i s u (hK i List.mem_cons_self) hs hu) h

/-! ## A buffer with nothing unread (41_rxbuffer.md R133, 42_parser.md R163) -/

section
variable {i : Instr} {s t : State}

/-- Only RX_WRITE adds an unread byte (41_rxbuffer.md R137). -/
theorem exec_window_eq_nil (hi : ∀ b, i ≠ .rxWrite b) (hs : s.CursorsLegal) (hw : s.window = [])
    (h : exec i s = .next t) : t.window = [] := by
  rcases unreadBytesOnlyGrowAtTheEndOrLoseAPrefix i s t hs h with
    hsame | ⟨b, rfl, -⟩ | ⟨-, d, -, hdrop⟩
  · rw [hsame, hw]
  · exact absurd rfl (hi b)
  · rw [hdrop, hw, List.drop_nil]

theorem State.pending_of_window_nil (hw : s.window = []) : s.pending = 0 := by
  rw [← s.length_window, hw, List.length_nil]

theorem exec_rxPeek_of_ge {o : Byte} (h : s.pending ≤ o.toNat) :
    exec (.rxPeek o) s = .next (s.raise .range) :=
  if_neg (mt (s.peekOk_iff o).mp h.not_gt)

theorem packStatus_empty : packStatus .empty false false false false = 0x00 := by decide

/-- With nothing unread the finding is EMPTY, and takes nothing: a legal buffer holds at least one byte,
so an empty one is not full. -/
theorem State.CursorsLegal.exec_decodeNext_of_window_nil (hs : s.CursorsLegal) (hw : s.window = []) :
    ∃ t, exec .decodeNext s = .next t ∧ t.tail = s.tail ∧ Answered t .ok 0x00 0x00 0x00 0 := by
  have hstart : START ∉ s.window := by simp [hw]
  have hroom : fillsBuffer s.cfg s.window = false := by
    obtain ⟨⟨hcap, -⟩, -⟩ := hs.1
    rw [fillsBuffer, hw, decide_eq_false_iff_not, List.length_nil]
    omega
  obtain ⟨t, hexec, hp⟩ := (Finds.empty (c := s.cfg) hstart).parsed hs
  have hstatus : t.pktStatus = 0x00 := by
    rw [hp.status]
    simp only [Finding.empty, hroom, packStatus_empty]
  obtain ⟨-, -, -, -, -, -, -, -, -, hanswer⟩ := hp.reports
  rw [hstatus] at hanswer
  exact ⟨t, hexec, hp.tail_eq_of_moved_zero hs (by simp [Finding.empty, hroom]), hanswer⟩

end

/-! ## Writing several bytes (41_rxbuffer.md R131) -/

theorem State.CursorsLegal.rxWriteN_cursorsLegal {s : State} (hs : s.CursorsLegal) (bs : List Byte) :
    (rxWriteN bs s).2.CursorsLegal ∧ (rxWriteN bs s).2.cfg = s.cfg :=
  rxWriteN_keeps (P := fun u => u.CursorsLegal ∧ u.cfg = s.cfg)
    (fun _ _ _ ⟨hu, hcfg⟩ h => ⟨exec_rxWrite_cursorsLegal hu h,
      (exec_keeps_surroundings h).1.trans hcfg⟩) bs ⟨hs, rfl⟩

/-! ## The obligations -/

/-- Settles O13: without an RX_WRITE nothing is ever unread, and without an encoder row TX_LEN stays
0. -/
theorem readsAfterResetUntilTheFirstWrite : Obligations.ReadsAfterResetUntilTheFirstWrite := by
  intro c n is s hc hrun
  have hreset : (State.resetOf c n).Inv := State.inv_resetOf hc n
  refine ⟨fun hwrite => ?unread, fun henc => ?frame⟩
  case unread =>
    obtain ⟨hinv, hw⟩ := execAll_keeps (P := fun s => s.Inv ∧ s.window = [])
      (K := fun i => ∀ b, i ≠ .rxWrite b)
      (fun _ _ _ hi ⟨hs, hw⟩ h => ⟨exec_keeps_inv hs h, exec_window_eq_nil hi hs.1 hw h⟩)
      (fun i hi b hb => hwrite b (hb ▸ hi)) ⟨hreset, hreset.1.window_of_empty rfl⟩ hrun
    refine ⟨hinv.1.exec_decodeNext_of_window_nil hw, fun o => ?_⟩
    have hpending : s.pending ≤ o.toNat := State.pending_of_window_nil hw ▸ Nat.zero_le _
    exact ⟨_, exec_rxPeek_of_ge hpending, Raised.raise .range s⟩
  case frame =>
    have hlen : s.txLen = 0 := execAll_keeps (P := fun s => s.txLen = 0)
      (K := fun i => runsEncoder i = false)
      (fun i s t hi hs h => by
        obtain ⟨-, -, -, -, -, hframe⟩ := onlyTheNamedOperationsWrite i s t h
        exact (hframe hi).1.trans hs)
      henc rfl hrun
    intro j
    have hle : s.txLen.toNat ≤ j.toNat := hlen ▸ Nat.zero_le _
    exact ⟨_, exec_txRead_of_ge hle, Raised.raise .range s⟩

/-- Settles O21: the reset table and accepting a request carry the build over, and no instruction writes
it. -/
theorem buildParametersNeverChange : Obligations.BuildParametersNeverChange := fun s _ h =>
  step_keeps (P := fun t => t.cfg = s.cfg) (fun _ _ hs => hs) (fun _ _ _ _ hs => hs)
    (fun _ _ _ hs h => (exec_keeps_surroundings h).1.trans hs) rfl h

/-- Settles O35: the writes leave TAIL, so the earlier HEAD is as far from it as it was, and the bytes
that were unread then are the ones it drops. -/
theorem advanceToAnEarlierHeadIsLegal : Obligations.AdvanceToAnEarlierHeadIsLegal := by
  intro bs s hs
  obtain ⟨-, hwindow, htail⟩ := rxWriteNWritesWhatFits bs s hs
  obtain ⟨hu, hcfg⟩ := hs.rxWriteN_cursorsLegal bs
  generalize rxWriteN bs s = r at hwindow htail hu hcfg ⊢
  obtain ⟨n, u⟩ := r
  have hdist : modSub s.head.toNat u.tail.toNat u.cfg.rxCap = s.window.length := by
    rw [htail, hcfg, State.length_window, State.pending]
  have hle : s.window.length ≤ u.pending := by
    rw [← u.length_window, hwindow, List.length_append]
    exact Nat.le_add_right _ _
  have hexec := exec_rxAdvance_of_legal (s := u) (hcfg ▸ hs.2.1) (hdist.trans_le hle)
  obtain ⟨hdrop, -⟩ := rxAdvanceDropsThePassedBytes s.head u _ hu hexec rfl
  refine ⟨_, hexec, rfl, u.tail_setTail s.head, ?_⟩
  rw [hdrop, hdist, hwindow, List.drop_left]

/-- Settles O11: the step holds reset, which applies the reset table. -/
theorem assertedResetPerformsNoRequest : Obligations.AssertedResetPerformsNoRequest := by
  intro s hline
  have hstep : step s = .next (s.takeReset true) := by
    rw [step_of_asserted hline, State.holdReset_eq, hline]
  exact ⟨_, hstep, rfl, rfl, rfl, rfl, rfl, rfl, rfl, rfl, rfl⟩

/-- Settles O58: the reset table is applied at both edges, and then no port is served. -/
theorem releasedResetLeavesTheResetTable : Obligations.ReleasedResetLeavesTheResetTable := by
  intro s r w
  have hidle := idleStepChangesNothing ((s.takeReset true).takeReset false) rfl rfl (.inl rfl)
  exact ⟨_, (s.driveReset_present_driveReset r w).symm, rfl, rfl, rfl, rfl, rfl, rfl, rfl, rfl, rfl,
    rfl, rfl, hidle⟩

/-- Settles O59: the release applies the reset table, whose state is a good one in a legal build. -/
theorem everyReleaseOfResetAppliesTheTable : Obligations.EveryReleaseOfResetAppliesTheTable := by
  intro s hline
  exact ⟨_, State.driveReset_false_of_asserted hline, rfl, rfl, rfl, rfl, rfl, rfl, rfl, rfl, rfl,
    fun hc => resetStatesAreGood.1 s.cfg (s.epoch + 1) hc⟩

end Sys2Proof.Machine
end
